-- ==== Sys2Proof/Word.lean ====
section
/-! DEFINITION. The word types of the block (R11, decision D2): every register, command word and table word is
32 bits, a byte (and a Huffman symbol, R200) is 8 bits. -/

namespace Sys2Proof

/-- A 32-bit word (R11): the width `REGW` of every register and of a command word. -/
abbrev Word := BitVec 32

/-- A byte (R11), and the width `SYMW` of a Huffman symbol (R9, R200). -/
abbrev Byte := BitVec 8

/-- A table held sparsely: (index, value) pairs, indices strictly rising in every state a run reaches. -/
abbrev Table (α : Type) := List (Nat × α)

end Sys2Proof
end

