-- ==== Sys2Proof/Syntax.lean ====
section
/-! DEFINITION. The commands of the block, one constructor per row of `spec/opcode_table.json` (R102). -/

namespace Sys2Proof

/-- The 18 commands of R102. Only two carry an operand in the word, the unsigned byte `imm8` (R103); every other
operand comes from a register or a memory (R104). -/
inductive Instr where
  | nop
  | clrErr
  | crcInit
  | crcByte (imm8 : Byte)
  | crcBuf
  | crc32
  | adlerInit
  | adlerByte (imm8 : Byte)
  | adlerBuf
  | adler32
  | parseSig
  | parseIhdr
  | parseIdat
  | parseIend
  | decode
  | huffTree
  | huffTable
  | huffAll
deriving DecidableEq, Repr

end Sys2Proof
end

