-- ==== Sys2Proof/WellFormed.lean ====
section
/-! DEFINITION. Which command words are legal, as R101 and R105 say it, check by check. A term of `Instr` needs no
check of its own: its one operand, `imm8`, is a byte by its type (R103). -/

namespace Sys2Proof.WellFormed

/-- The 18 opcodes of R102. -/
def opcodes : List Nat :=
  [0x00, 0x01, 0x10, 0x11, 0x12, 0x13, 0x20, 0x21, 0x22, 0x23, 0x30, 0x31, 0x32, 0x33, 0x34, 0x40, 0x41, 0x42]

/-- The two opcodes that take an immediate (R100, R102): `CRC_BYTE` and `ADLER_BYTE`. -/
def immOpcodes : List Nat := [0x11, 0x21]

/-- R100: bits 31:16 are reserved and must be 0. -/
def rsvZero (w : Word) : Bool := w.toNat / 2 ^ 16 == 0

/-- R101: bits 7:0 are one of the 18 opcodes. -/
def opcodeKnown (w : Word) : Bool := opcodes.contains (w.toNat % 2 ^ 8)

/-- R101: either the command takes an immediate or bits 15:8 are 0. -/
def immAllowed (w : Word) : Bool :=
  immOpcodes.contains (w.toNat % 2 ^ 8) || w.toNat / 2 ^ 8 % 2 ^ 8 == 0

/-- A legal command word (R101); every other word is illegal (R105). -/
def legalWord (w : Word) : Bool := rsvZero w && opcodeKnown w && immAllowed w

end Sys2Proof.WellFormed
end

