-- ==== Sys2Proof/Decode.lean ====
section
/-! DEFINITION. The decoder of a command word (R100 to R105), total on every word and rejecting by name, and after it
the encoder, written from the match column of R102. A word is a number written to register `CMD`; the block has no
byte order for it (R71), so the decoder takes the word itself. -/

namespace Sys2Proof

/-- Why a word is illegal (R105), in the order the decoder looks. -/
inductive Reject where
  /-- `rsv != 0` (R105). -/
  | reservedBits
  /-- `op` is not in the table of R102 (R105). -/
  | reservedOpcode
  /-- `imm8 != 0` with an `op` other than `0x11` and `0x21` (R105). -/
  | immediateNotZero
deriving DecidableEq, Repr

/-- What a written word decodes to: one command (R101), or an illegal word with the reason (R105). -/
inductive Decoded where
  | legal (i : Instr)
  | illegal (why : Reject)
deriving DecidableEq, Repr

/-- `op = w[7:0]` (R101). -/
def opField (w : Word) : Byte := w.extractLsb' 0 8

/-- `imm8 = w[15:8]` (R101). -/
def immField (w : Word) : Byte := w.extractLsb' 8 8

/-- `rsv = w[31:16]` (R101). -/
def rsvField (w : Word) : BitVec 16 := w.extractLsb' 16 16

/-- The opcode map of R102: the command an opcode selects, with `imm8` where the row takes it. -/
def ofOpcode (op imm8 : Byte) : Option Instr :=
  match op.toNat with
  | 0x00 => some .nop
  | 0x01 => some .clrErr
  | 0x10 => some .crcInit
  | 0x11 => some (.crcByte imm8)
  | 0x12 => some .crcBuf
  | 0x13 => some .crc32
  | 0x20 => some .adlerInit
  | 0x21 => some (.adlerByte imm8)
  | 0x22 => some .adlerBuf
  | 0x23 => some .adler32
  | 0x30 => some .parseSig
  | 0x31 => some .parseIhdr
  | 0x32 => some .parseIdat
  | 0x33 => some .parseIend
  | 0x34 => some .decode
  | 0x40 => some .huffTree
  | 0x41 => some .huffTable
  | 0x42 => some .huffAll
  | _ => none

/-- Which rows of R102 have an immediate. -/
def takesImm : Instr → Bool
  | .crcByte _ | .adlerByte _ => true
  | .nop | .clrErr | .crcInit | .crcBuf | .crc32 | .adlerInit | .adlerBuf | .adler32 | .parseSig | .parseIhdr
  | .parseIdat | .parseIend | .decode | .huffTree | .huffTable | .huffAll => false

/-- Decoding a written word (R101): legal when `rsv = 0`, `op` is in the table, and the command takes an immediate
or `imm8 = 0`; every other word is illegal (R105). -/
def decodeWord (w : Word) : Decoded :=
  if rsvField w ≠ 0 then .illegal .reservedBits
  else
    match ofOpcode (opField w) (immField w) with
    | none => .illegal .reservedOpcode
    | some i => if takesImm i = true ∨ immField w = 0 then .legal i else .illegal .immediateNotZero

/-- The match column of R102. -/
def matchOf : Instr → Word
  | .nop => 0x00000000
  | .clrErr => 0x00000001
  | .crcInit => 0x00000010
  | .crcByte _ => 0x00000011
  | .crcBuf => 0x00000012
  | .crc32 => 0x00000013
  | .adlerInit => 0x00000020
  | .adlerByte _ => 0x00000021
  | .adlerBuf => 0x00000022
  | .adler32 => 0x00000023
  | .parseSig => 0x00000030
  | .parseIhdr => 0x00000031
  | .parseIdat => 0x00000032
  | .parseIend => 0x00000033
  | .decode => 0x00000034
  | .huffTree => 0x00000040
  | .huffTable => 0x00000041
  | .huffAll => 0x00000042

/-- The immediate a command carries, 0 where R102 says none. -/
def immOf : Instr → Byte
  | .crcByte b | .adlerByte b => b
  | .nop | .clrErr | .crcInit | .crcBuf | .crc32 | .adlerInit | .adlerBuf | .adler32 | .parseSig | .parseIhdr
  | .parseIdat | .parseIend | .decode | .huffTree | .huffTable | .huffAll => 0

/-- The word of a command: its match, with the immediate in bits 15:8 (R107: `match | (imm << 8)`). -/
def encode (i : Instr) : Word := matchOf i ||| ((immOf i).setWidth 32 <<< 8)

/-- The instruction the decoder reads from a row of `spec/opcode_table.json`: `w` numbered as the table numbers it
(bit 0 the least significant bit of the one 32-bit word), every bit above `nbits` being 0. A number of more than 32
bits is no command word (R100). -/
def decodeTableWord (nbits w : Nat) : Option Instr :=
  if w % 2 ^ nbits < 2 ^ 32 then
    match decodeWord (BitVec.ofNat 32 (w % 2 ^ nbits)) with
    | .legal i => some i
    | .illegal _ => none
  else none

end Sys2Proof
end

