-- ==== Sys2Proof/Config.lean ====
section
/-! DEFINITION. What an implementation fixes (R9: `BUF_CAP`, `SYM_CAP`) and the free values (R54), as constants
without a body: nothing in Lean can evaluate them, so what is proved holds for every choice of them. -/

namespace Sys2Proof.Config

/-- The identity string a model may use (R2). -/
def identity : String := "openavatar-core/spec-v7"

/-- One less than `BUF_CAP`; `Fin` states the bound `1 <= BUF_CAP <= 2^32 - 1` of R9 (log 3). -/
opaque bufCapPred : Fin 4294967295

/-- One less than `SYM_CAP`, bounded as `BUF_CAP` is (R9, log 3). -/
opaque symCapPred : Fin 4294967295

/-- `BUF_CAP`, an OPEN parameter of R9: at least 1 and at most `2^32 - 1`. -/
def bufCap : Nat := bufCapPred.val + 1

/-- `SYM_CAP`, an OPEN parameter of R9: at least 1 and at most `2^32 - 1`. -/
def symCap : Nat := symCapPred.val + 1

/-- The free value of R54: what BUF holds at an index not written since the last reset. The first argument counts
the resets, so each reset fixes its values anew (log 4). -/
opaque freeBuf : Nat → Nat → Byte

/-- The free value of R54 for SYM, as `freeBuf` (log 4). -/
opaque freeSym : Nat → Nat → Byte

end Sys2Proof.Config
end

