-- ==== Sys2Proof/Machine/State.lean ====
section
/-! DEFINITION. The architectural state of one instance of the block (R21), the host's remaining accesses (R20), the
reasons a step can stop, and the state after reset (R53, R280). -/

namespace Sys2Proof.Machine

/-- The error codes of `STATUS.ERR` (R250), 0 to 9 in this order. Codes 10 to 15 are never written (R250, U16) and
have no constructor. -/
inductive ErrCode where
  | ok
  | badSignature
  | invalidLength
  | unexpectedChunkType
  | checksumMismatch
  | emptyInput
  | degenerateTree
  | outOfBounds
  | illegalCommand
  | noTree
deriving DecidableEq, Repr

/-- `STATUS.STAGE` (R25): the parse stage an error arose at, 0 to 4 in this order. -/
inductive Stage where
  | none
  | signature
  | ihdr
  | idat
  | iend
deriving DecidableEq, Repr

/-- Register `STATUS` (R25) by its three fields; its other bits read 0, and the host cannot write it (log 12). -/
structure Status where
  err : ErrCode
  stage : Stage
  sticky : Bool
deriving DecidableEq, Repr

/-- The fields of the `IHDR` record (R39, R42). -/
structure IhdrRec where
  off : Word
  len : Word
  type : Word
  width : Word
  height : Word
  bitdepth : Byte
  color : Byte
  comp : Byte
  filter : Byte
  interlace : Byte
  crc : Word
  crcCalc : Word
deriving DecidableEq, Repr

/-- The fields of the `IDAT` record (R39, R43). -/
structure IdatRec where
  off : Word
  len : Word
  type : Word
  dataOff : Word
  crc : Word
  crcCalc : Word
  crcOk : Bool
  chunkLen : Word
deriving DecidableEq, Repr

/-- The fields of the `IEND` record (R39, R44). -/
structure IendRec where
  off : Word
  len : Word
  type : Word
  crc : Word
  crcCalc : Word
  crcOk : Bool
deriving DecidableEq, Repr

/-- A Huffman node (R49): a leaf carries a symbol and its weight, an internal node a combined weight and the node
indices of its two children. Weights and indices are counts, held as naturals; the words of port NODE are computed
from them (`nodeWord`, log 7). -/
inductive HNode where
  | leaf (sym : Byte) (weight : Nat)
  | internal (weight left right : Nat)
deriving DecidableEq, Repr

/-- BUF or SYM (R21): the cells written since the last reset, indices strictly rising. An index not listed has not
been written and holds a free value (R54, log 4). -/
abbrev Memory := List Host.Cell

/-- The host operations of R20, one access each. -/
inductive HostOp where
  | regRead (off : Nat)
  | regWrite (off : Nat) (v : Word)
  | bufRead (i : Nat)
  | bufWrite (i : Nat) (b : Byte)
  | symRead (i : Nat)
  | symWrite (i : Nat) (b : Byte)
  | freqRead (s : Nat)
  | nodeRead (k : Nat)
  | codeRead (k : Nat)
  | reset
deriving DecidableEq, Repr

/-- No step of this model faults, so there is no constructor: every error of the block is an ordinary result with
`STATUS.ERR` set (R273 (a)) and nothing can hang or be stuck (R273 (e)) (log 9). -/
inductive Fault : Type
deriving DecidableEq, Repr

/-- Why a step has no next state. But for `notModelled`, every constructor is a host access outside a port's size,
which R20 gives no step (R273 (c), U13). All are safe: nothing is claimed of a refused access (log 6). -/
inductive Refusal where
  /-- Raised by `exec`'s arm of an instruction that has no meaning yet; safe. -/
  | notModelled (mnemonic : String)
  /-- Raised by `RegRead` and `RegWrite` of an offset that is no multiple of 4 or lies above `0xFC`; safe. -/
  | regOffset (off : Nat)
  /-- Raised by `BufRead` and `BufWrite` of an index at or above `BUF_CAP`; safe. -/
  | bufIndex (i : Nat)
  /-- Raised by `SymRead` and `SymWrite` of an index at or above `SYM_CAP`; safe. -/
  | symIndex (i : Nat)
  /-- Raised by `FreqRead` of an index at or above 256; safe. -/
  | freqIndex (s : Nat)
  /-- Raised by `NodeRead` of an index at or above 1022; safe. -/
  | nodeIndex (k : Nat)
  /-- Raised by `CodeRead` of an index at or above 4096; safe. -/
  | codeIndex (k : Nat)
deriving DecidableEq, Repr

/-- The state of one instance (R21), with the model's own fields first: the host's script and the values its reads
returned, the reset counter and the instance's two capacities. -/
structure State where
  /-- The host accesses still to be performed, next first (R32, R292; log 1). -/
  script : List HostOp
  /-- The values the reads performed so far returned, oldest first (R294; log 2). -/
  reads : List Word
  /-- How many times `Reset` has been applied: the draw of BUF's and SYM's free values (R54; log 4). -/
  resets : Nat
  /-- `BUF_CAP` of this instance (R9; log 3). -/
  bufCap : Nat
  /-- `SYM_CAP` of this instance (R9; log 3). -/
  symCap : Nat
  /-- `STATUS` (R25). -/
  status : Status
  /-- `ERRINFO` (R26). -/
  errinfo : Word
  /-- `CFG` (R27). -/
  cfg : Word
  /-- `ARG0` (R28). -/
  arg0 : Word
  /-- `ARG1` (R28). -/
  arg1 : Word
  /-- `BUFLEN` (R29). -/
  buflen : Word
  /-- `SYMLEN` (R30). -/
  symlen : Word
  /-- `CRC_STATE` (R35). -/
  crcState : Word
  /-- `ADLER_A` (R37). -/
  adlerA : Word
  /-- `ADLER_B` (R37). -/
  adlerB : Word
  /-- `POFF` (R33). -/
  poff : Word
  /-- `PCONS` (R34). -/
  pcons : Word
  /-- The `SIG` record: the 8 signature bytes (R39). -/
  sig : Option (List Byte)
  /-- The `IHDR` record (R39). -/
  ihdr : Option IhdrRec
  /-- The `IDAT` record (R39). -/
  idat : Option IdatRec
  /-- The `IEND` record (R39). -/
  iend : Option IendRec
  /-- `DEC_V` (R39). -/
  decV : Bool
  /-- `TREE_V` (R46). -/
  treeV : Bool
  /-- `TABLE_V` (R46). -/
  tableV : Bool
  /-- `DEGEN` (R46). -/
  degen : Bool
  /-- `HNSYM` (R47). -/
  hnsym : Word
  /-- `HROOT` (R47). -/
  hroot : Word
  /-- `HNNODE` (R47). -/
  hnnode : Word
  /-- FREQ (R48): the counts that are not zero, by symbol value (log 7). -/
  freq : Table Nat
  /-- NODE (R49): the valid nodes in index order (log 7). -/
  node : List HNode
  /-- CODE (R50): the path of every symbol that has an entry, by symbol value; `false` is a left step (log 7). -/
  code : Table (List Bool)
  /-- BUF (R21). -/
  buf : Memory
  /-- SYM (R21). -/
  sym : Memory
deriving DecidableEq, Repr

/-- The state after `Reset` of an instance with the given capacities (R53, R280). No cell of BUF or SYM is listed:
their contents are unspecified (R54). -/
def State.resetOf (bufCap symCap : Nat) : State where
  script := []
  reads := []
  resets := 0
  bufCap := bufCap
  symCap := symCap
  status := { err := .ok, stage := .none, sticky := false }
  errinfo := 0
  cfg := 0
  arg0 := 0
  arg1 := 0
  buflen := 0
  symlen := 0
  crcState := 0xFFFFFFFF
  adlerA := 1
  adlerB := 0
  poff := 0
  pcons := 0
  sig := none
  ihdr := none
  idat := none
  iend := none
  decV := false
  treeV := false
  tableV := false
  degen := false
  hnsym := 0
  hroot := 0
  hnnode := 0
  freq := []
  node := []
  code := []
  buf := []
  sym := []

/-- The machine right after reset (R53, R280), with the capacities left open by R9 (log 3). -/
def State.reset : State := State.resetOf Config.bufCap Config.symCap

end Sys2Proof.Machine
end

