-- ==== Sys2Proof/Machine/Ops.lean ====
section
/-! DEFINITION. The named operations every command and host access is made of: sparse tables and the two memories,
how a command ends (R253, R254: the block's exceptions), and the changes several rules share. -/

namespace Sys2Proof

/-- The value listed at index `k`, if any. -/
def Table.find {α : Type} : Table α → Nat → Option α
  | [], _ => none
  | (i, v) :: t, k => if i = k then some v else find t k

/-- Store `v` at index `k`, keeping the indices rising: it replaces the entry at `k` or is put in its place. -/
def Table.put {α : Type} : Table α → Nat → α → Table α
  | [], k, v => [(k, v)]
  | (i, w) :: t, k, v =>
    if k < i then (k, v) :: (i, w) :: t
    else if k = i then (k, v) :: t
    else (i, w) :: put t k v

/-- Every index of `t` is above `k`, and they rise strictly. -/
def Table.risesFrom {α : Type} : Nat → Table α → Bool
  | _, [] => true
  | k, (i, _) :: t => decide (k < i) && risesFrom i t

/-- The one canonical form of a table: indices strictly rising, so equal contents are equal data. -/
def Table.wf {α : Type} : Table α → Bool
  | [] => true
  | (i, _) :: t => Table.risesFrom i t

namespace Machine

/-- The canonical form of BUF or SYM: indices strictly rising. An index not listed reads as a free value (R54), which
no listed byte can be compared with, so listing an index says that it has been written since the last reset (log 4). -/
def Memory.wf (m : Memory) : Bool := Table.wf m

/-- The low 32 bits of a natural number (R12, R254). -/
def low32 (n : Nat) : Word := BitVec.ofNat 32 n

/-- `BUF[i]`: the byte last written, or the free value of an index not written since reset (R54, log 4). -/
def State.bufByte (s : State) (i : Nat) : Byte := (Table.find s.buf i).getD (Config.freeBuf s.resets i)

/-- `SYM[i]`, as `bufByte` (R54, log 4). -/
def State.symByte (s : State) (i : Nat) : Byte := (Table.find s.sym i).getD (Config.freeSym s.resets i)

/-- `BUF[i .. i+n)` in increasing index order (R13, R74). -/
def State.bufRange (s : State) : Nat → Nat → List Byte
  | _, 0 => []
  | i, n + 1 => s.bufByte i :: s.bufRange (i + 1) n

/-- `SYM[i .. i+n)` in increasing index order (R74, R85). -/
def State.symRange (s : State) : Nat → Nat → List Byte
  | _, 0 => []
  | i, n + 1 => s.symByte i :: s.symRange (i + 1) n

/-- Successful end of a command (R253): `ERR`, `STAGE` and `ERRINFO` to 0, `STICKY` as it was. -/
def State.finish (s : State) : State :=
  { s with status := { err := .ok, stage := .none, sticky := s.status.sticky }, errinfo := 0 }

/-- Error entry (R254): the block's exception. `ERR` and `STAGE` name it, `STICKY` is set, `ERRINFO` takes its detail.
Nothing is saved and nothing is transferred, so there is no return beside it: the next command overwrites the outcome
(R258), and only `CLRERR` and reset clear `STICKY` (R259). -/
def State.raise (s : State) (e : ErrCode) (stage : Stage) (info : Word) : State :=
  { s with status := { err := e, stage := stage, sticky := true }, errinfo := info }

/-- The four records and `DEC_V` cleared: what a write of BUF or `BUFLEN` does (R286), and `DECODE` (R174). -/
def State.clearRecords (s : State) : State :=
  { s with sig := none, ihdr := none, idat := none, iend := none, decV := false }

/-- Any earlier tree and table discarded: the first lines of `HUFF_TREE` (R206). -/
def State.clearHuffman (s : State) : State :=
  { s with
    treeV := false, tableV := false, degen := false, hnsym := 0, hroot := 0, hnnode := 0
    freq := [], node := [], code := [] }

/-- A host read returns `v` and changes nothing of the block (R23, R75); the model records it (R294, log 2). -/
def State.logRead (s : State) (v : Word) : State := { s with reads := s.reads ++ [v] }

/-- `BufWrite(i, b)` at an index of the port: the store, and the records cleared (R286). -/
def State.putBuf (s : State) (i : Nat) (b : Byte) : State :=
  { s.clearRecords with buf := Table.put s.buf i b }

/-- `SymWrite(i, b)` at an index of the port: the store, and nothing else (R286). -/
def State.putSym (s : State) (i : Nat) (b : Byte) : State := { s with sym := Table.put s.sym i b }

/-- `Reset` on port RST (R280): the block as after reset, with BUF and SYM drawn anew; the host's own record of the
run (its script and what its reads returned) goes on. -/
def State.applyReset (s : State) : State :=
  { State.resetOf s.bufCap s.symCap with script := s.script, reads := s.reads, resets := s.resets + 1 }

/-- How the pseudocode of a command ends before its final status write: run to the end, or stopped by
`raise E(info)` at a stage (R254). -/
inductive Body where
  | done (s : State)
  | raised (s : State) (e : ErrCode) (stage : Stage) (info : Word)
deriving DecidableEq, Repr

/-- Go on with `f` where the first part ran to its end; an error ends the command at once (R254). -/
def Body.andThen (b : Body) (f : State → Body) : Body :=
  match b with
  | .done s => f s
  | .raised s e stage info => .raised s e stage info

/-- The final status write (R253, R254), as the last part of the same transition. -/
def Body.close (b : Body) : Host.Outcome State Fault Refusal :=
  match b with
  | .done s => .next s.finish
  | .raised s e stage info => .next (s.raise e stage info)

end Machine
end Sys2Proof
end

