-- ==== Sys2Proof/Machine/Operands.lean ====
section
/-! DEFINITION. Where commands take their operands from (R104): the immediate byte, the range of `ARG0` and `ARG1`,
the fields of BUF at an offset, the options of `CFG`. -/

namespace Sys2Proof.Machine

/-- A byte placed in a word, zeros above (R13 `zext_32`, R74). -/
def zext (b : Byte) : Word := b.setWidth 32

/-- `have(addr, n)` (R13, R76): the field of `n` bytes at `addr` lies in the buffer, over the naturals (R77). -/
abbrev State.fits (s : State) (addr n : Nat) : Prop := addr + n ≤ s.buflen.toNat

/-- Four bytes, first the most significant (R71). -/
def packBE (b0 b1 b2 b3 : Byte) : Word := (zext b0 <<< 24) ||| (zext b1 <<< 16) ||| (zext b2 <<< 8) ||| zext b3

/-- The 4-byte big-endian read of R72. -/
def State.be32 (s : State) (addr : Nat) : Word :=
  packBE (s.bufByte addr) (s.bufByte (addr + 1)) (s.bufByte (addr + 2)) (s.bufByte (addr + 3))

/-- `CFG.STRICT` (R27). -/
def State.strict (s : State) : Bool := s.cfg.getLsbD 0

/-- `CFG.DEGEN_ERR` (R27). -/
def State.degenErr (s : State) : Bool := s.cfg.getLsbD 1

/-- The range operand of `CRC_BUF`, `CRC32`, `ADLER_BUF`, `ADLER32` (R28, R104): the whole range is tested once, before
any byte is used (R76); outside the buffer the command raises `OutOfBounds` with `ARG0` and has no other effect. -/
def State.overRange (s : State) (f : List Byte → State) : Host.Outcome State Fault Refusal :=
  if s.fits s.arg0.toNat s.arg1.toNat then
    .next (f (s.bufRange s.arg0.toNat s.arg1.toNat)).finish
  else .next (s.raise .outOfBounds .none s.arg0)

end Sys2Proof.Machine
end

