-- ==== Sys2Proof/Machine/Adler32.lean ====
section
/-! DEFINITION. The Adler-32 function (R140 to R143) and the four commands of its unit (R144 to R147, R150). -/

namespace Sys2Proof.Machine

/-- `ADLER_MOD` (R9). -/
def adlerMod : Nat := 65521

/-- `adler_step(a, b, x)` (R140): reduced after every addition, and `b` adds the new `a`. -/
def adlerStep (p : Nat × Nat) (x : Byte) : Nat × Nat :=
  let a := (p.1 + x.toNat) % adlerMod
  (a, (p.2 + a) % adlerMod)

/-- The byte steps of a sequence in order (R142). -/
def adlerFold (p : Nat × Nat) (bytes : List Byte) : Nat × Nat := bytes.foldl adlerStep p

/-- The packing `(b << 16) | a` (R38, R141). -/
def adlerPack (a b : Word) : Word := (b <<< 16) ||| a

/-- `adler32(s)` (R141). -/
def adler32 (bytes : List Byte) : Word :=
  let p := adlerFold (1, 0) bytes
  adlerPack (low32 p.1) (low32 p.2)

/-- The 4-byte form of a checksum, in stream order (R38, R143). -/
def bytesBE (v : Word) : List Byte :=
  [v.extractLsb' 24 8, v.extractLsb' 16 8, v.extractLsb' 8 8, v.extractLsb' 0 8]

/-- The two sum registers take a pair of sums. -/
def State.setAdler (s : State) (p : Nat × Nat) : State := { s with adlerA := low32 p.1, adlerB := low32 p.2 }

/-- The pair the two sum registers hold. -/
def State.adlerPair (s : State) : Nat × Nat := (s.adlerA.toNat, s.adlerB.toNat)

/-- `ADLER_INIT` (R144). -/
def execAdlerInit (s : State) : Host.Outcome State Fault Refusal := .next (s.setAdler (1, 0)).finish

/-- `ADLER_BYTE #imm8` (R145). -/
def execAdlerByte (imm8 : Byte) (s : State) : Host.Outcome State Fault Refusal :=
  .next (s.setAdler (adlerStep s.adlerPair imm8)).finish

/-- `ADLER_BUF` (R146). -/
def execAdlerBuf (s : State) : Host.Outcome State Fault Refusal :=
  s.overRange fun bytes => s.setAdler (adlerFold s.adlerPair bytes)

/-- `ADLER32` (R147): `ADLER_A` takes bits 15:0 of the checksum of the range, `ADLER_B` its bits 31:16. -/
def execAdler32 (s : State) : Host.Outcome State Fault Refusal :=
  s.overRange fun bytes =>
    { s with adlerA := (adler32 bytes) &&& 0xFFFF, adlerB := (adler32 bytes) >>> 16 }

end Sys2Proof.Machine
end

