-- ==== Sys2Proof/Machine/Crc32.lean ====
section
/-! DEFINITION. The CRC-32 function (R120 to R122) and the four commands of its unit (R123 to R126, R130). -/

namespace Sys2Proof.Machine

/-- The reflected polynomial `CRC_POLY` (R9). -/
def crcPoly : Word := 0xEDB88320

/-- `CRC_SEED` (R9). -/
def crcSeed : Word := 0xFFFFFFFF

/-- `CRC_XOROUT` (R9). -/
def crcXorOut : Word := 0xFFFFFFFF

/-- One of the eight iterations of R120: bit 0 is tested before the shift, and the shift is logical. -/
def crcShift (c : Word) : Word := if c.getLsbD 0 then (c >>> 1) ^^^ crcPoly else c >>> 1

/-- `crc_step(c, b)` (R120). -/
def crcStep (c : Word) (b : Byte) : Word := Nat.repeat crcShift 8 (c ^^^ zext b)

/-- `fold(c, s)` (R122): the byte steps of a sequence, in order. -/
def crcFold (c : Word) (bytes : List Byte) : Word := bytes.foldl crcStep c

/-- `crc32(s)` (R121). -/
def crc32 (bytes : List Byte) : Word := crcFold crcSeed bytes ^^^ crcXorOut

/-- `CRC_INIT` (R123). -/
def execCrcInit (s : State) : Host.Outcome State Fault Refusal := .next { s with crcState := crcSeed }.finish

/-- `CRC_BYTE #imm8` (R124). -/
def execCrcByte (imm8 : Byte) (s : State) : Host.Outcome State Fault Refusal :=
  .next { s with crcState := crcStep s.crcState imm8 }.finish

/-- `CRC_BUF` (R125): all or nothing. -/
def execCrcBuf (s : State) : Host.Outcome State Fault Refusal :=
  s.overRange fun bytes => { s with crcState := crcFold s.crcState bytes }

/-- `CRC32` (R126): the accumulator is left so that `CRC_VALUE` reads the checksum of the range. -/
def execCrc32 (s : State) : Host.Outcome State Fault Refusal :=
  s.overRange fun bytes => { s with crcState := crc32 bytes ^^^ crcXorOut }

end Sys2Proof.Machine
end

