-- ==== Sys2Proof/Machine/Flags.lean ====
section
/-! DEFINITION. The flag words: the numbers of the error codes and stages (R25, R250), and the views `STATUS` (R25),
`PSTAT` (R40) and `HSTAT` (R46). The block has no arithmetic condition codes (R51). -/

namespace Sys2Proof.Machine

/-- The code of an error (R250). -/
def errNumber : ErrCode → Nat
  | .ok => 0
  | .badSignature => 1
  | .invalidLength => 2
  | .unexpectedChunkType => 3
  | .checksumMismatch => 4
  | .emptyInput => 5
  | .degenerateTree => 6
  | .outOfBounds => 7
  | .illegalCommand => 8
  | .noTree => 9

/-- The number of a stage (R25). -/
def stageNumber : Stage → Nat
  | .none => 0
  | .signature => 1
  | .ihdr => 2
  | .idat => 3
  | .iend => 4

/-- A one-bit field at bit `k` of a word. -/
def bitAt (k : Nat) (b : Bool) : Word := if b then 1#32 <<< k else 0#32

/-- `STATUS` (R25): `ERR` in bits 3:0, `STAGE` in 6:4, `STICKY` in bit 8, the rest 0. -/
def State.statusWord (s : State) : Word :=
  BitVec.ofNat 32 (errNumber s.status.err) ||| (BitVec.ofNat 32 (stageNumber s.status.stage) <<< 4)
    ||| bitAt 8 s.status.sticky

/-- `PSTAT` (R40): the valid bits of the records, `DEC_V`, and the CRC match bits. -/
def State.pstat (s : State) : Word :=
  bitAt 0 s.sig.isSome ||| bitAt 1 s.ihdr.isSome ||| bitAt 2 s.idat.isSome ||| bitAt 3 s.iend.isSome
    ||| bitAt 4 s.decV ||| bitAt 8 s.ihdr.isSome
    ||| bitAt 9 (s.idat.any fun r => r.crc == r.crcCalc)
    ||| bitAt 10 (s.iend.any fun r => r.crc == r.crcCalc)

/-- `HSTAT` (R46): `TREE_V`, `TABLE_V`, `DEGEN`. -/
def State.hstat (s : State) : Word := bitAt 0 s.treeV ||| bitAt 1 s.tableV ||| bitAt 2 s.degen

end Sys2Proof.Machine
end

