-- ==== Sys2Proof/Machine/Huffman.lean ====
section
/-! DEFINITION. The Huffman tree builder and code-table emitter: counting, leaves, merging (R200 to R209), the path
codes (R210 to R214), the three commands (R206, R212, R216), and the words of the FREQ, NODE and CODE ports
(R48 to R50). -/

namespace Sys2Proof.Machine

/-- Step 1, counting (R201): the symbol values that occur, each with its number of occurrences, by symbol value. -/
def countSymbols (syms : List Byte) : Table Nat :=
  (List.range 256).filterMap fun s =>
    let c := syms.countP fun b => b.toNat == s
    if c = 0 then none else some (s, c)

/-- Step 2, leaves (R202): one per distinct symbol, in increasing order of symbol value. -/
def leavesOf (freq : Table Nat) : List HNode := freq.map fun p => .leaf (BitVec.ofNat 8 p.1) p.2

/-- A member of the live set (R204): a node by its weight and index. -/
structure Live where
  weight : Nat
  index : Nat
deriving DecidableEq, Repr

/-- The order on nodes, with its tie-break (R203). -/
def lighter (x y : Live) : Bool :=
  decide (x.weight < y.weight) || (x.weight == y.weight && decide (x.index < y.index))

/-- The lightest of a live set that has the member `x`, and the set without it (R204). -/
def takeLightest : Live → List Live → Live × List Live
  | x, [] => (x, [])
  | x, y :: ys =>
    match takeLightest y ys with
    | (m, rest) => if lighter x m then (x, y :: ys) else (m, x :: rest)

/-- The weight of a node (R49). -/
def HNode.weight : HNode → Nat
  | .leaf _ w => w
  | .internal w _ _ => w

/-- Step 3, merging (R204): take the lightest `f`, then the lightest remaining `g`, make the node with the next free
index with `f` left and `g` right, and go on until one node is left. Each merge takes one from the live set, so as
many rounds as it has members are enough (R205). It answers the node table and what is left of the live set. -/
def mergeAll : Nat → List HNode → List Live → List HNode × List Live
  | rounds + 1, nodes, x :: y :: live =>
    match takeLightest x (y :: live) with
    | (f, []) => (nodes, [f])
    | (f, z :: zs) =>
      match takeLightest z zs with
      | (g, rest) =>
        mergeAll rounds (nodes ++ [.internal (f.weight + g.weight) f.index g.index])
          (⟨f.weight + g.weight, nodes.length⟩ :: rest)
  | _, nodes, live => (nodes, live)

/-- The live set before the first merge: all the leaves (R204). -/
def liveOf : Nat → List HNode → List Live
  | _, [] => []
  | k, x :: xs => ⟨x.weight, k⟩ :: liveOf (k + 1) xs

/-- The node table and the root of the tree of some counts (R202 to R205). -/
def buildTree (freq : Table Nat) : List HNode × Nat :=
  let leaves := leavesOf freq
  let r := mergeAll leaves.length leaves (liveOf 0 leaves)
  (r.1, (r.2.head?.map Live.index).getD 0)

/-- The body of `HUFF_TREE` (R206): any earlier tree and table are discarded whatever the outcome. -/
def State.huffTreeBody (s : State) : Body :=
  if s.symlen = 0 then .raised s.clearHuffman .emptyInput .none 0
  else
    let freq := countSymbols (s.symRange 0 s.symlen.toNat)
    let tree := buildTree freq
    .done
      { s.clearHuffman with
        freq := freq
        node := tree.1
        hroot := low32 tree.2
        hnsym := low32 freq.length
        hnnode := low32 (2 * freq.length - 1)
        degen := freq.length == 1
        treeV := true }

/-- The leaves under node `k` with their paths from the root (R210): a left step is `false`, a right step `true`. In a
tree of `nodes.length` nodes no path is longer than that, so `depth` rounds from there are enough (R219, log 8). -/
def leafPaths (nodes : List HNode) : Nat → Nat → List Bool → List (Byte × List Bool)
  | 0, _, _ => []
  | depth + 1, k, path =>
    match nodes[k]? with
    | none => []
    | some (.leaf sym _) => [(sym, path)]
    | some (.internal _ l r) => leafPaths nodes depth l (path ++ [false]) ++ leafPaths nodes depth r (path ++ [true])

/-- The code table of the tree with the given root (R210, R211): from the empty table, one entry per leaf. -/
def codeTable (nodes : List HNode) (root : Nat) : Table (List Bool) :=
  (leafPaths nodes nodes.length root []).foldl (fun t e => Table.put t e.1.toNat e.2) []

/-- The info word of a node (R49): `VALID` bit 31, `KIND` bit 30, then `SYM`, or `LEFT` in 8:0 and `RIGHT` in 24:16. -/
def HNode.info : HNode → Word
  | .leaf sym _ => 0x80000000#32 ||| zext sym
  | .internal _ l r => 0xC0000000#32 ||| ((BitVec.ofNat 9 r).setWidth 32 <<< 16) ||| (BitVec.ofNat 9 l).setWidth 32

/-- Word `k` of port NODE (R49): weight words at even indices, info words at odd ones, 0 for a node not valid. -/
def State.nodeWord (s : State) (k : Nat) : Word :=
  match s.node[k / 2]? with
  | none => 0
  | some x => if k % 2 = 0 then low32 x.weight else x.info

/-- Word `i` of port FREQ (R48). -/
def State.freqWord (s : State) (i : Nat) : Word := low32 ((Table.find s.freq i).getD 0)

/-- Up to 32 path bits as a word, the first at bit 0 (R50). -/
def packBits : List Bool → Word
  | [] => 0
  | b :: bs => bitAt 0 b ||| (packBits bs <<< 1)

/-- Word `j` of the 16 words of a symbol whose code is `path` (R50). -/
def codeEntryWord (path : List Bool) (j : Nat) : Word :=
  if j = 0 then 0x80000000#32 ||| (BitVec.ofNat 9 path.length).setWidth 32
  else if j ≤ 8 then packBits ((path.drop (32 * (j - 1))).take 32)
  else 0

/-- Word `k` of port CODE (R50): symbol `k div 16`, word `k mod 16`, 0 where the symbol has no entry. -/
def State.codeWord (s : State) (k : Nat) : Word :=
  match Table.find s.code (k / 16) with
  | none => 0
  | some path => codeEntryWord path (k % 16)

/-- The body of `HUFF_TABLE` (R212 to R214): past the `NoTree` check nothing of an earlier table is left, and the new
one is built whole. The symbol of a single-leaf tree is bits 7:0 of the root's info word. -/
def State.huffTableBody (s : State) : Body :=
  if s.treeV = false then .raised s .noTree .none 0
  else if s.degen = true then
    if s.degenErr = true then .raised { s with tableV := false, code := [] } .degenerateTree .none 0
    else .done { s with code := [((s.nodeWord (2 * s.hroot.toNat + 1)).toNat % 256, [false])], tableV := true }
  else .done { s with code := codeTable s.node s.hroot.toNat, tableV := true }

/-- `HUFF_TREE` (R206). -/
def execHuffTree (s : State) : Host.Outcome State Fault Refusal := s.huffTreeBody.close

/-- `HUFF_TABLE` (R212). -/
def execHuffTable (s : State) : Host.Outcome State Fault Refusal := s.huffTableBody.close

/-- `HUFF_ALL` (R216): the tree, and if that did not raise, the table. -/
def execHuffAll (s : State) : Host.Outcome State Fault Refusal := (s.huffTreeBody.andThen State.huffTableBody).close

end Sys2Proof.Machine
end

