-- ==== Sys2Proof/Machine/Parser.lean ====
section
/-! DEFINITION. The PNG chunk parser: the reading of each chunk (R160 to R172), the bodies of the four `PARSE_*`
commands (R162) and `DECODE` (R174 to R176). It uses the function `crc32` and never the register `CRC_STATE` (R163). -/

namespace Sys2Proof.Machine

/-- The 8 signature bytes (R161). -/
def signature : List Byte := [0x89, 0x50, 0x4E, 0x47, 0x0D, 0x0A, 0x1A, 0x0A]

/-- The type tags as big-endian numbers (R161). -/
def tagIhdr : Word := 0x49484452

/-- The tag `IDAT` (R161). -/
def tagIdat : Word := 0x49444154

/-- The tag `IEND` (R161). -/
def tagIend : Word := 0x49454E44

/-- What reading a chunk gives: its record, or the first error met in the order of R256 with its `ERRINFO` (R251). -/
inductive Parsed (α : Type) where
  | ok (r : α)
  | err (e : ErrCode) (info : Word)
deriving DecidableEq, Repr

/-- The CRC-32 a chunk's trailer is compared with: over type tag and data, `n` data bytes of the chunk at `o` (R160). -/
def State.chunkCrc (s : State) (o n : Nat) : Word := crc32 (s.bufRange (o + 4) (4 + n))

/-- The checks of `PARSE_SIG` (R164). -/
def State.readSig (s : State) : Parsed (List Byte) :=
  if s.buflen.toNat < 8 ∨ s.bufRange 0 8 ≠ signature then .err .badSignature 0
  else .ok (s.bufRange 0 8)

/-- The checks and the record of `PARSE_IHDR` at offset `o` (R165, R166). The five one-byte fields, width and height
take any value (R167). -/
def State.readIhdr (s : State) (o : Nat) : Parsed IhdrRec :=
  if ¬ s.fits o 4 then .err .outOfBounds (low32 o)
  else if s.be32 o ≠ 13 then .err .invalidLength (s.be32 o)
  else if ¬ s.fits (o + 4) 4 then .err .outOfBounds (low32 (o + 4))
  else if s.be32 (o + 4) ≠ tagIhdr then .err .unexpectedChunkType (s.be32 (o + 4))
  else if ¬ s.fits (o + 8) 13 then .err .outOfBounds (low32 (o + 8))
  else if ¬ s.fits (o + 21) 4 then .err .outOfBounds (low32 (o + 21))
  else if s.be32 (o + 21) ≠ s.chunkCrc o 13 then .err .checksumMismatch (s.chunkCrc o 13)
  else
    .ok
      { off := low32 o
        len := 13
        type := s.be32 (o + 4)
        width := s.be32 (o + 8)
        height := s.be32 (o + 12)
        bitdepth := s.bufByte (o + 16)
        color := s.bufByte (o + 17)
        comp := s.bufByte (o + 18)
        filter := s.bufByte (o + 19)
        interlace := s.bufByte (o + 20)
        crc := s.be32 (o + 21)
        crcCalc := s.chunkCrc o 13 }

/-- The checks and the record of `PARSE_IDAT` at offset `o` (R168 to R170): the trailer is enforced in strict mode
only, and in both modes the stored value, the computed value and their equality are kept. -/
def State.readIdat (s : State) (o : Nat) : Parsed IdatRec :=
  let n := (s.be32 o).toNat
  if ¬ s.fits o 4 then .err .outOfBounds (low32 o)
  else if ¬ s.fits (o + 4) 4 then .err .outOfBounds (low32 (o + 4))
  else if s.be32 (o + 4) ≠ tagIdat then .err .unexpectedChunkType (s.be32 (o + 4))
  else if ¬ s.fits (o + 8) n then .err .outOfBounds (low32 (o + 8))
  else if ¬ s.fits (o + 8 + n) 4 then .err .outOfBounds (low32 (o + 8 + n))
  else if s.strict = true ∧ s.be32 (o + 8 + n) ≠ s.chunkCrc o n then .err .checksumMismatch (s.chunkCrc o n)
  else
    .ok
      { off := low32 o
        len := s.be32 o
        type := s.be32 (o + 4)
        dataOff := low32 (o + 8)
        crc := s.be32 (o + 8 + n)
        crcCalc := s.chunkCrc o n
        crcOk := s.be32 (o + 8 + n) == s.chunkCrc o n
        chunkLen := low32 (12 + n) }

/-- The checks and the record of `PARSE_IEND` at offset `o` (R171 to R173). -/
def State.readIend (s : State) (o : Nat) : Parsed IendRec :=
  if ¬ s.fits o 4 then .err .outOfBounds (low32 o)
  else if s.be32 o ≠ 0 then .err .invalidLength (s.be32 o)
  else if ¬ s.fits (o + 4) 4 then .err .outOfBounds (low32 (o + 4))
  else if s.be32 (o + 4) ≠ tagIend then .err .unexpectedChunkType (s.be32 (o + 4))
  else if ¬ s.fits (o + 8) 4 then .err .outOfBounds (low32 (o + 8))
  else if s.strict = true ∧ s.be32 (o + 8) ≠ s.chunkCrc o 0 then .err .checksumMismatch (s.chunkCrc o 0)
  else
    .ok
      { off := low32 o
        len := 0
        type := s.be32 (o + 4)
        crc := s.be32 (o + 8)
        crcCalc := s.chunkCrc o 0
        crcOk := s.be32 (o + 8) == s.chunkCrc o 0 }

/-- The body of `PARSE_SIG` (R164): it reads at offset 0 whatever `POFF` is. -/
def State.sigBody (s : State) : Body :=
  match s.readSig with
  | .err e info => .raised { s with decV := false, sig := none, pcons := 0 } e .signature info
  | .ok r => .done { s with decV := false, sig := some r, pcons := 8, poff := 8 }

/-- The body of `PARSE_IHDR` (R166). -/
def State.ihdrBody (s : State) : Body :=
  match s.readIhdr s.poff.toNat with
  | .err e info => .raised { s with decV := false, ihdr := none, pcons := 0 } e .ihdr info
  | .ok r => .done { s with decV := false, ihdr := some r, pcons := 25, poff := low32 (s.poff.toNat + 25) }

/-- The body of `PARSE_IDAT` (R169). -/
def State.idatBody (s : State) : Body :=
  match s.readIdat s.poff.toNat with
  | .err e info => .raised { s with decV := false, idat := none, pcons := 0 } e .idat info
  | .ok r =>
    .done
      { s with
        decV := false
        idat := some r
        pcons := low32 (12 + r.len.toNat)
        poff := low32 (s.poff.toNat + 12 + r.len.toNat) }

/-- The body of `PARSE_IEND` (R172). -/
def State.iendBody (s : State) : Body :=
  match s.readIend s.poff.toNat with
  | .err e info => .raised { s with decV := false, iend := none, pcons := 0 } e .iend info
  | .ok r => .done { s with decV := false, iend := some r, pcons := 12, poff := low32 (s.poff.toNat + 12) }

/-- What `DECODE` clears before its first stage (R174). -/
def State.decodeStart (s : State) : State := { s.clearRecords with poff := 0, pcons := 0 }

/-- The four stages of `DECODE` in their fixed order, stopping at the first error (R174, R177). -/
def State.decodeStages (s : State) : Body :=
  s.sigBody.andThen fun s => s.ihdrBody.andThen fun s => s.idatBody.andThen fun s => s.iendBody

/-- The body of `DECODE` (R174): on an error all four records are cleared and `POFF` stays at the start of the failing
stage (R176); on success `DEC_V` is set and `PCONS` is the length of the stream (R175). -/
def State.decodeBody (s : State) : Body :=
  match s.decodeStart.decodeStages with
  | .raised s e stage info => .raised { s.clearRecords with pcons := 0 } e stage info
  | .done s => .done { s with decV := true, pcons := s.poff }

/-- `PARSE_SIG` (R164). -/
def execParseSig (s : State) : Host.Outcome State Fault Refusal := s.sigBody.close

/-- `PARSE_IHDR` (R166). -/
def execParseIhdr (s : State) : Host.Outcome State Fault Refusal := s.ihdrBody.close

/-- `PARSE_IDAT` (R169). -/
def execParseIdat (s : State) : Host.Outcome State Fault Refusal := s.idatBody.close

/-- `PARSE_IEND` (R172). -/
def execParseIend (s : State) : Host.Outcome State Fault Refusal := s.iendBody.close

/-- `DECODE` (R174). -/
def execDecode (s : State) : Host.Outcome State Fault Refusal := s.decodeBody.close

end Sys2Proof.Machine
end

