-- ==== Sys2Proof/Machine/System.lean ====
section
/-! DEFINITION. The two system commands (R240, R241) and the entry of `IllegalCommand` (R255). -/

namespace Sys2Proof.Machine

/-- `NOP` (R240): nothing but the successful end. -/
def execNop (s : State) : Host.Outcome State Fault Refusal := .next s.finish

/-- `CLRERR` (R241): all of `STATUS`, `STICKY` included, and `ERRINFO` to 0. -/
def execClrErr (s : State) : Host.Outcome State Fault Refusal :=
  .next { s with status := { err := .ok, stage := .none, sticky := false }, errinfo := 0 }

/-- An illegal word `w` written to `CMD` (R105, R255): nothing is executed and nothing else changes. -/
def State.illegalCommand (s : State) (w : Word) : State := s.raise .illegalCommand .none w

end Sys2Proof.Machine
end

