-- ==== Sys2Proof/Machine/Dispatch.lean ====
section
/-! DEFINITION. One arm per command, each one direct call of its meaning. -/

namespace Sys2Proof.Machine

def exec (i : Instr) (s : State) : Host.Outcome State Fault Refusal :=
  match i with
  | .nop => Sys2Proof.Machine.execNop s
  | .clrErr => Sys2Proof.Machine.execClrErr s
  | .crcInit => Sys2Proof.Machine.execCrcInit s
  | .crcByte imm8 => Sys2Proof.Machine.execCrcByte imm8 s
  | .crcBuf => Sys2Proof.Machine.execCrcBuf s
  | .crc32 => Sys2Proof.Machine.execCrc32 s
  | .adlerInit => Sys2Proof.Machine.execAdlerInit s
  | .adlerByte imm8 => Sys2Proof.Machine.execAdlerByte imm8 s
  | .adlerBuf => Sys2Proof.Machine.execAdlerBuf s
  | .adler32 => Sys2Proof.Machine.execAdler32 s
  | .parseSig => Sys2Proof.Machine.execParseSig s
  | .parseIhdr => Sys2Proof.Machine.execParseIhdr s
  | .parseIdat => Sys2Proof.Machine.execParseIdat s
  | .parseIend => Sys2Proof.Machine.execParseIend s
  | .decode => Sys2Proof.Machine.execDecode s
  | .huffTree => Sys2Proof.Machine.execHuffTree s
  | .huffTable => Sys2Proof.Machine.execHuffTable s
  | .huffAll => Sys2Proof.Machine.execHuffAll s

end Sys2Proof.Machine
end

