-- ==== Sys2Proof/Machine/Registers.lean ====
section
/-! DEFINITION. The register map of port REG (R22, R23): offsets, what each register reads as (R24 to R47), and what a
host write does (R22 to R30). -/

namespace Sys2Proof.Machine

/-- The registers of R22 by name; `reserved` stands for every reserved offset (R23). -/
inductive Reg where
  | cmd | status | cfg | arg0 | arg1 | buflen | symlen | errinfo
  | crcState | crcValue | adlerA | adlerB | adlerValue
  | poff | pcons | pstat | sigHi | sigLo
  | ihdrOff | ihdrLen | ihdrType | ihdrWidth | ihdrHeight | ihdrBitdepth | ihdrColor | ihdrComp | ihdrFilter
  | ihdrInterlace | ihdrCrc | ihdrCrcCalc
  | idatOff | idatLen | idatType | idatDataOff | idatCrc | idatCrcCalc | idatChunkLen
  | iendOff | iendLen | iendType | iendCrc | iendCrcCalc
  | hstat | hnsym | hroot | hnnode
  | reserved
deriving DecidableEq, Repr

/-- The register at byte offset `4 * n` (R22). -/
def regAt (n : Nat) : Reg :=
  match n with
  | 0x00 => .cmd
  | 0x01 => .status
  | 0x02 => .cfg
  | 0x03 => .arg0
  | 0x04 => .arg1
  | 0x05 => .buflen
  | 0x06 => .symlen
  | 0x07 => .errinfo
  | 0x08 => .crcState
  | 0x09 => .crcValue
  | 0x0A => .adlerA
  | 0x0B => .adlerB
  | 0x0C => .adlerValue
  | 0x10 => .poff
  | 0x11 => .pcons
  | 0x12 => .pstat
  | 0x13 => .sigHi
  | 0x14 => .sigLo
  | 0x15 => .ihdrOff
  | 0x16 => .ihdrLen
  | 0x17 => .ihdrType
  | 0x18 => .ihdrWidth
  | 0x19 => .ihdrHeight
  | 0x1A => .ihdrBitdepth
  | 0x1B => .ihdrColor
  | 0x1C => .ihdrComp
  | 0x1D => .ihdrFilter
  | 0x1E => .ihdrInterlace
  | 0x1F => .ihdrCrc
  | 0x20 => .ihdrCrcCalc
  | 0x21 => .idatOff
  | 0x22 => .idatLen
  | 0x23 => .idatType
  | 0x24 => .idatDataOff
  | 0x25 => .idatCrc
  | 0x26 => .idatCrcCalc
  | 0x27 => .idatChunkLen
  | 0x28 => .iendOff
  | 0x29 => .iendLen
  | 0x2A => .iendType
  | 0x2B => .iendCrc
  | 0x2C => .iendCrcCalc
  | 0x30 => .hstat
  | 0x31 => .hnsym
  | 0x32 => .hroot
  | 0x33 => .hnnode
  | _ => .reserved

/-- The register a byte offset names: a multiple of 4 from `0x00` to `0xFC` (R20, R22), none elsewhere (U13). -/
def regOfOffset (off : Nat) : Option Reg :=
  if off % 4 = 0 ∧ off ≤ 0xFC then some (regAt (off / 4)) else none

/-- The byte offset of register `CMD` (R24). -/
def cmdOffset : Nat := 0x00

/-- Byte `i` of the `SIG` record; used for the 8 bytes it holds (R41). -/
def sigByte (bytes : List Byte) (i : Nat) : Byte := bytes.getD i 0

/-- A register of the `IHDR` record: a field of it, or 0 when the record is `none` (R42, R45). -/
def State.ofIhdr (s : State) (f : IhdrRec → Word) : Word := (s.ihdr.map f).getD 0

/-- A register of the `IDAT` record (R43, R45). -/
def State.ofIdat (s : State) (f : IdatRec → Word) : Word := (s.idat.map f).getD 0

/-- A register of the `IEND` record (R44, R45). -/
def State.ofIend (s : State) (f : IendRec → Word) : Word := (s.iend.map f).getD 0

/-- `RegRead` (R22): the value a register reads as. `CMD` and the reserved offsets read 0 (R23, R24). -/
def State.regValue (s : State) : Reg → Word
  | .cmd => 0
  | .status => s.statusWord
  | .cfg => s.cfg
  | .arg0 => s.arg0
  | .arg1 => s.arg1
  | .buflen => s.buflen
  | .symlen => s.symlen
  | .errinfo => s.errinfo
  | .crcState => s.crcState
  | .crcValue => s.crcState ^^^ crcXorOut
  | .adlerA => s.adlerA
  | .adlerB => s.adlerB
  | .adlerValue => adlerPack s.adlerA s.adlerB
  | .poff => s.poff
  | .pcons => s.pcons
  | .pstat => s.pstat
  | .sigHi => (s.sig.map fun b => packBE (sigByte b 0) (sigByte b 1) (sigByte b 2) (sigByte b 3)).getD 0
  | .sigLo => (s.sig.map fun b => packBE (sigByte b 4) (sigByte b 5) (sigByte b 6) (sigByte b 7)).getD 0
  | .ihdrOff => s.ofIhdr IhdrRec.off
  | .ihdrLen => s.ofIhdr IhdrRec.len
  | .ihdrType => s.ofIhdr IhdrRec.type
  | .ihdrWidth => s.ofIhdr IhdrRec.width
  | .ihdrHeight => s.ofIhdr IhdrRec.height
  | .ihdrBitdepth => s.ofIhdr fun r => zext r.bitdepth
  | .ihdrColor => s.ofIhdr fun r => zext r.color
  | .ihdrComp => s.ofIhdr fun r => zext r.comp
  | .ihdrFilter => s.ofIhdr fun r => zext r.filter
  | .ihdrInterlace => s.ofIhdr fun r => zext r.interlace
  | .ihdrCrc => s.ofIhdr IhdrRec.crc
  | .ihdrCrcCalc => s.ofIhdr IhdrRec.crcCalc
  | .idatOff => s.ofIdat IdatRec.off
  | .idatLen => s.ofIdat IdatRec.len
  | .idatType => s.ofIdat IdatRec.type
  | .idatDataOff => s.ofIdat IdatRec.dataOff
  | .idatCrc => s.ofIdat IdatRec.crc
  | .idatCrcCalc => s.ofIdat IdatRec.crcCalc
  | .idatChunkLen => s.ofIdat IdatRec.chunkLen
  | .iendOff => s.ofIend IendRec.off
  | .iendLen => s.ofIend IendRec.len
  | .iendType => s.ofIend IendRec.type
  | .iendCrc => s.ofIend IendRec.crc
  | .iendCrcCalc => s.ofIend IendRec.crcCalc
  | .hstat => s.hstat
  | .hnsym => s.hnsym
  | .hroot => s.hroot
  | .hnnode => s.hnnode
  | .reserved => 0

/-- `RegWrite` of a register other than `CMD` (R22 to R30, R33): the RW registers store, `CFG` its bits 1:0 only (R27),
`BUFLEN` and `SYMLEN` at most their capacity (R29, R30), and `BUFLEN` clears the records (R286). A write of a read-only
register or of a reserved offset changes nothing (R23). `CMD` stores nothing (R24): what its write runs is
`hostAccess`'s. -/
def State.regStore (s : State) (r : Reg) (v : Word) : State :=
  match r with
  | .cfg => { s with cfg := v &&& 3 }
  | .arg0 => { s with arg0 := v }
  | .arg1 => { s with arg1 := v }
  | .buflen => { s.clearRecords with buflen := low32 (min v.toNat s.bufCap) }
  | .symlen => { s with symlen := low32 (min v.toNat s.symCap) }
  | .poff => { s with poff := v }
  | .cmd | .status | .errinfo | .crcState | .crcValue | .adlerA | .adlerB | .adlerValue | .pcons | .pstat | .sigHi
  | .sigLo | .ihdrOff | .ihdrLen | .ihdrType | .ihdrWidth | .ihdrHeight | .ihdrBitdepth | .ihdrColor | .ihdrComp
  | .ihdrFilter | .ihdrInterlace | .ihdrCrc | .ihdrCrcCalc | .idatOff | .idatLen | .idatType | .idatDataOff | .idatCrc
  | .idatCrcCalc | .idatChunkLen | .iendOff | .iendLen | .iendType | .iendCrc | .iendCrcCalc | .hstat | .hnsym
  | .hroot | .hnnode | .reserved => s

end Sys2Proof.Machine
end

