-- ==== Sys2Proof/Machine/Access.lean ====
section
/-! DEFINITION. What one host access does (R20): the reads, the writes, `Reset`, and the write of `CMD`, which decodes
and runs one whole command (R24, R78). An access outside its port's size is refused (R20, U13). -/

namespace Sys2Proof.Machine

/-- A write of `CMD` (R24): the word is decoded and its command runs to completion as one transition (R78); an illegal
word raises `IllegalCommand` (R105). The word itself is not stored. -/
def runCommand (w : Word) (s : State) : Host.Outcome State Fault Refusal :=
  match decodeWord w with
  | .legal i => exec i s
  | .illegal _ => .next (s.illegalCommand w)

/-- `RegWrite(off, v)` at a register (R22, R24). -/
def regWrite (r : Reg) (v : Word) (s : State) : Host.Outcome State Fault Refusal :=
  if r = .cmd then runCommand v s else .next (s.regStore r v)

/-- One host access (R20). -/
def hostAccess (op : HostOp) (s : State) : Host.Outcome State Fault Refusal :=
  match op with
  | .regRead off =>
    match regOfOffset off with
    | none => .refused (.regOffset off)
    | some r => .next (s.logRead (s.regValue r))
  | .regWrite off v =>
    match regOfOffset off with
    | none => .refused (.regOffset off)
    | some r => regWrite r v s
  | .bufRead i => if i < s.bufCap then .next (s.logRead (zext (s.bufByte i))) else .refused (.bufIndex i)
  | .bufWrite i b => if i < s.bufCap then .next (s.putBuf i b) else .refused (.bufIndex i)
  | .symRead i => if i < s.symCap then .next (s.logRead (zext (s.symByte i))) else .refused (.symIndex i)
  | .symWrite i b => if i < s.symCap then .next (s.putSym i b) else .refused (.symIndex i)
  | .freqRead i => if i < 256 then .next (s.logRead (s.freqWord i)) else .refused (.freqIndex i)
  | .nodeRead k => if k < 1022 then .next (s.logRead (s.nodeWord k)) else .refused (.nodeIndex k)
  | .codeRead k => if k < 4096 then .next (s.logRead (s.codeWord k)) else .refused (.codeIndex k)
  | .reset => .next s.applyReset

/-- The next access is taken from the script and performed (R79: in the order issued). With no access left the block
is idle and holds its state (R272, R281, R293; log 1). -/
def stepScript (s : State) : Host.Outcome State Fault Refusal :=
  match s.script with
  | [] => .next s
  | op :: rest => hostAccess op { s with script := rest }

/-- The access that gives the block a command word: `RegWrite(CMD, w)` (R24, R107). -/
def cmdWrite (w : Word) : HostOp := .regWrite cmdOffset w

end Sys2Proof.Machine
end

