-- ==== Sys2Proof/Machine/Step.lean ====
section
/-! DEFINITION. One step of the machine: one host access (R20, R78), a write of `CMD` running one whole command. -/

namespace Sys2Proof.Machine

/-- One step: the next access of the host's script (`stepScript`). -/
def step (s : State) : Host.Outcome State Fault Refusal := stepScript s

/-- `s` with the command word `w` where `step` takes its next command from: as the host's next access, a write of
`CMD` (R24), before whatever the script holds. `w` is numbered as the opcode table numbers it and its bits above
`nbits` are 0; a command word is one 32-bit word (R100). This stands for the host's loading of a program (R292, log 1). -/
def State.withFetchWord (s : State) (nbits w : Nat) : State :=
  { s with script := cmdWrite (BitVec.ofNat 32 (w % 2 ^ nbits)) :: s.script }

end Sys2Proof.Machine
end

