-- ==== Sys2Proof/Machine/Script.lean ====
section
/-! DEFINITION. The script notation as host accesses (R107 to R109): a line is the access it stands for, and a
pseudo-operation its expansion. The block knows nothing of them (R108). -/

namespace Sys2Proof.Machine.Script

/-- `cmd MNEMONIC` and `cmd MNEMONIC #imm` (R107). -/
def cmd (i : Instr) : HostOp := cmdWrite (encode i)

/-- `bufw addr: b0 b1 ...` (R107). -/
def bufw : Nat → List Byte → List HostOp
  | _, [] => []
  | addr, b :: bs => .bufWrite addr b :: bufw (addr + 1) bs

/-- `symw addr: s0 s1 ...` (R107). -/
def symw : Nat → List Byte → List HostOp
  | _, [] => []
  | addr, b :: bs => .symWrite addr b :: symw (addr + 1) bs

/-- `crc32 off, len` (R108): `wr ARG0`, `wr ARG1`, `cmd CRC32`, `rd CRC_VALUE`. -/
def crc32Of (off len : Word) : List HostOp := [.regWrite 0x0C off, .regWrite 0x10 len, cmd .crc32, .regRead 0x24]

/-- `adler32 off, len` (R108): `wr ARG0`, `wr ARG1`, `cmd ADLER32`, `rd ADLER_VALUE`. -/
def adler32Of (off len : Word) : List HostOp := [.regWrite 0x0C off, .regWrite 0x10 len, cmd .adler32, .regRead 0x30]

/-- `load data` (R108). -/
def load (data : List Byte) : List HostOp := bufw 0 data ++ [.regWrite 0x14 (low32 data.length)]

/-- `loadsym data` (R108). -/
def loadsym (data : List Byte) : List HostOp := symw 0 data ++ [.regWrite 0x18 (low32 data.length)]

/-- `strict` (R108), for the value `CFG` was read as: set bit 0, write back. -/
def strict (cfg : Word) : List HostOp := [.regRead 0x08, .regWrite 0x08 (cfg ||| 1)]

/-- `lenient` (R108), for the value `CFG` was read as: clear bit 0, write back. -/
def lenient (cfg : Word) : List HostOp := [.regRead 0x08, .regWrite 0x08 (cfg &&& ~~~1)]

/-- Loading a program (R292): `Reset`, then the script's accesses in order. -/
def program (ops : List HostOp) : List HostOp := .reset :: ops

end Sys2Proof.Machine.Script
end

