-- ==== Sys2Proof/Safety.lean ====
section
/-! DEFINITION. The terms claims are made in: the parts of the state an access leaves alone, how a command ended, runs
of several steps, the invariant of R55 and its neighbours, the layout of a PNG stream (R160, R161), and the shape of a
Huffman tree (R203 to R210). -/

namespace Sys2Proof.Machine

/-! ### What an access leaves alone -/

/-- The host's side and the instance's parameters are as they were. -/
structure SameRun (s t : State) : Prop where
  script : t.script = s.script
  reads : t.reads = s.reads
  resets : t.resets = s.resets
  bufCap : t.bufCap = s.bufCap
  symCap : t.symCap = s.symCap

/-- The registers only the host writes are as they were (R27 to R30). -/
structure SameOperands (s t : State) : Prop where
  cfg : t.cfg = s.cfg
  arg0 : t.arg0 = s.arg0
  arg1 : t.arg1 = s.arg1
  buflen : t.buflen = s.buflen
  symlen : t.symlen = s.symlen

/-- Every byte of BUF and every symbol of SYM reads as before. -/
structure SameMemory (s t : State) : Prop where
  buf : ∀ a, t.bufByte a = s.bufByte a
  sym : ∀ a, t.symByte a = s.symByte a

/-- The two sums are as they were (R37). -/
structure SameAdler (s t : State) : Prop where
  adlerA : t.adlerA = s.adlerA
  adlerB : t.adlerB = s.adlerB

/-- The cursor registers are as they were (R33, R34). -/
structure SameCursor (s t : State) : Prop where
  poff : t.poff = s.poff
  pcons : t.pcons = s.pcons

/-- The four records and `DEC_V` are as they were (R39). -/
structure SameRecords (s t : State) : Prop where
  sig : t.sig = s.sig
  ihdr : t.ihdr = s.ihdr
  idat : t.idat = s.idat
  iend : t.iend = s.iend
  decV : t.decV = s.decV

/-- The tree, its numbers and flags are as they were (R46 to R49). -/
structure SameTree (s t : State) : Prop where
  treeV : t.treeV = s.treeV
  degen : t.degen = s.degen
  hnsym : t.hnsym = s.hnsym
  hroot : t.hroot = s.hroot
  hnnode : t.hnnode = s.hnnode
  freq : t.freq = s.freq
  node : t.node = s.node

/-- The code table and its flag are as they were (R46, R50). -/
structure SameTable (s t : State) : Prop where
  tableV : t.tableV = s.tableV
  code : t.code = s.code

/-- What no command changes (R75, R257): the host's side, the operand registers, BUF and SYM. -/
structure SameInputs (s t : State) : Prop where
  run : SameRun s t
  operands : SameOperands s t
  memory : SameMemory s t

/-- What the system commands leave alone: all but `STATUS` and `ERRINFO` (R240, R241, R255). -/
structure SystemFrame (s t : State) : Prop where
  inputs : SameInputs s t
  crc : t.crcState = s.crcState
  adler : SameAdler s t
  cursor : SameCursor s t
  records : SameRecords s t
  tree : SameTree s t
  table : SameTable s t

/-- What the CRC commands leave alone (R130). -/
structure CrcFrame (s t : State) : Prop where
  inputs : SameInputs s t
  adler : SameAdler s t
  cursor : SameCursor s t
  records : SameRecords s t
  tree : SameTree s t
  table : SameTable s t

/-- What the Adler commands leave alone (R150). -/
structure AdlerFrame (s t : State) : Prop where
  inputs : SameInputs s t
  crc : t.crcState = s.crcState
  cursor : SameCursor s t
  records : SameRecords s t
  tree : SameTree s t
  table : SameTable s t

/-- What the parse commands leave alone (R178). -/
structure ParserFrame (s t : State) : Prop where
  inputs : SameInputs s t
  crc : t.crcState = s.crcState
  adler : SameAdler s t
  tree : SameTree s t
  table : SameTable s t

/-- What the Huffman commands leave alone (R217). -/
structure HuffmanFrame (s t : State) : Prop where
  inputs : SameInputs s t
  crc : t.crcState = s.crcState
  adler : SameAdler s t
  cursor : SameCursor s t
  records : SameRecords s t

/-- Every part of the block (R21) is as it was; the host's script and reads are not spoken of. -/
structure SameBlock (s t : State) : Prop where
  resets : t.resets = s.resets
  status : t.status = s.status
  errinfo : t.errinfo = s.errinfo
  operands : SameOperands s t
  memory : SameMemory s t
  crc : t.crcState = s.crcState
  adler : SameAdler s t
  cursor : SameCursor s t
  records : SameRecords s t
  tree : SameTree s t
  table : SameTable s t

/-- The four records and `DEC_V` are clear (R286, R53), so that `PSTAT` and every record register read 0 (R45). -/
structure RecordsCleared (t : State) : Prop where
  sig : t.sig = none
  ihdr : t.ihdr = none
  idat : t.idat = none
  iend : t.iend = none
  decV : t.decV = false
  pstat : t.pstat = 0
  views : ∀ n, 0x13 ≤ n → n ≤ 0x2C → t.regValue (regAt n) = 0

/-! ### How a command ends -/

/-- The successful end of R253: `ERR`, `STAGE`, `ERRINFO` are 0 and `STICKY` is as it was. -/
structure EndsOk (s t : State) : Prop where
  err : t.status.err = .ok
  stage : t.status.stage = .none
  sticky : t.status.sticky = s.status.sticky
  errinfo : t.errinfo = 0

/-- The error entry of R254. -/
structure EndsRaised (e : ErrCode) (stage : Stage) (info : Word) (t : State) : Prop where
  err : t.status.err = e
  stage : t.status.stage = stage
  sticky : t.status.sticky = true
  errinfo : t.errinfo = info

/-- "No fault recorded" (R259): no command since the last reset or `CLRERR` ended with an error. -/
def State.noErrorRecorded (s : State) : Prop := s.status.sticky = false

/-- The stage number of a parse command's errors (R25, R162); `DECODE` reports the failing stage. -/
def stageOf : Instr → Stage
  | .parseSig => .signature
  | .parseIhdr => .ihdr
  | .parseIdat => .idat
  | .parseIend => .iend
  | .nop | .clrErr | .crcInit | .crcByte _ | .crcBuf | .crc32 | .adlerInit | .adlerByte _ | .adlerBuf | .adler32
  | .decode | .huffTree | .huffTable | .huffAll => .none

/-- The errors a command can raise (R252), for the options the state holds. -/
def raisable (s : State) : Instr → List ErrCode
  | .nop | .clrErr | .crcInit | .crcByte _ | .adlerInit | .adlerByte _ => []
  | .crcBuf | .crc32 | .adlerBuf | .adler32 => [.outOfBounds]
  | .parseSig => [.badSignature]
  | .parseIhdr => [.invalidLength, .unexpectedChunkType, .checksumMismatch, .outOfBounds]
  | .parseIdat => [.unexpectedChunkType, .outOfBounds] ++ (if s.strict then [.checksumMismatch] else [])
  | .parseIend => [.invalidLength, .unexpectedChunkType, .outOfBounds] ++ (if s.strict then [.checksumMismatch] else [])
  | .decode => [.badSignature, .invalidLength, .unexpectedChunkType, .checksumMismatch, .outOfBounds]
  | .huffTree => [.emptyInput]
  | .huffTable => [.noTree] ++ (if s.degenErr then [.degenerateTree] else [])
  | .huffAll => [.emptyInput] ++ (if s.degenErr then [.degenerateTree] else [])

/-- How a `PARSE_*` command that meets error `e` ends (R162 item 2, R257): it raises at its stage, its own record is
`none`, `PCONS` and `DEC_V` are 0, `POFF` and the other three records are as they were, and so is all it never writes. -/
structure ParseFails (i : Instr) (e : ErrCode) (info : Word) (s t : State) : Prop where
  raised : EndsRaised e (stageOf i) info t
  frame : ParserFrame s t
  pcons : t.pcons = 0
  poff : t.poff = s.poff
  decV : t.decV = false
  sig : t.sig = if i = .parseSig then none else s.sig
  ihdr : t.ihdr = if i = .parseIhdr then none else s.ihdr
  idat : t.idat = if i = .parseIdat then none else s.idat
  iend : t.iend = if i = .parseIend then none else s.iend

/-- How a `PARSE_*` command that succeeds and consumes `n` bytes from offset `start` ends (R162 item 3), but for its own
record. -/
structure ParseEnds (i : Instr) (start n : Nat) (s t : State) : Prop where
  ok : EndsOk s t
  frame : ParserFrame s t
  pcons : t.pcons.toNat = n
  poff : t.poff.toNat = start + n
  decV : t.decV = false
  sig : i ≠ .parseSig → t.sig = s.sig
  ihdr : i ≠ .parseIhdr → t.ihdr = s.ihdr
  idat : i ≠ .parseIdat → t.idat = s.idat
  iend : i ≠ .parseIend → t.iend = s.iend

/-- The accesses that only read (R20, R23). -/
def isRead : HostOp → Bool
  | .regRead _ | .bufRead _ | .symRead _ | .freqRead _ | .nodeRead _ | .codeRead _ => true
  | .regWrite _ _ | .bufWrite _ _ | .symWrite _ _ | .reset => false

/-- The access has a next state and returns `v` (R20, R294): the value stands last among those read (log 2). -/
def Returns (s : State) (op : HostOp) (v : Word) : Prop :=
  ∃ t, hostAccess op s = .next t ∧ t.reads = s.reads ++ [v]

/-- The five commands of the chunk parser (R162). -/
def parseCommands : List Instr := [.parseSig, .parseIhdr, .parseIdat, .parseIend, .decode]

/-- The access lies inside its port's size (R20). -/
def inPort (s : State) : HostOp → Prop
  | .regRead off | .regWrite off _ => off % 4 = 0 ∧ off ≤ 0xFC
  | .bufRead i | .bufWrite i _ => i < s.bufCap
  | .symRead i | .symWrite i _ => i < s.symCap
  | .freqRead i => i < 256
  | .nodeRead k => k < 1022
  | .codeRead k => k < 4096
  | .reset => True

/-! ### Runs -/

/-- `n` steps, stopping where one has no next state. -/
def runSteps : Nat → State → Host.Outcome State Fault Refusal
  | 0, s => .next s
  | n + 1, s =>
    match step s with
    | .next t => runSteps n t
    | .fault r => .fault r
    | .refused r => .refused r

/-- The script run to its end from `s` (R292, R293): one step per access. -/
def runScript (ops : List HostOp) (s : State) : Host.Outcome State Fault Refusal :=
  runSteps ops.length { s with script := ops }

/-- One piece of a message absorbed incrementally (R122, R142): a byte of a command word, or a range of BUF. -/
inductive Piece where
  | byte (b : Byte)
  | range (off len : Word)
deriving DecidableEq, Repr

/-- The bytes a piece stands for. -/
def Piece.bytes (s : State) : Piece → List Byte
  | .byte b => [b]
  | .range off len => s.bufRange off.toNat len.toNat

/-- The range of a piece lies in the buffer (R76). -/
def Piece.inBuffer (s : State) : Piece → Prop
  | .byte _ => True
  | .range off len => s.fits off.toNat len.toNat

/-- The accesses that absorb a piece into the CRC accumulator. -/
def Piece.crcOps : Piece → List HostOp
  | .byte b => [Script.cmd (.crcByte b)]
  | .range off len => [.regWrite 0x0C off, .regWrite 0x10 len, Script.cmd .crcBuf]

/-- The accesses that absorb a piece into the Adler accumulator. -/
def Piece.adlerOps : Piece → List HostOp
  | .byte b => [Script.cmd (.adlerByte b)]
  | .range off len => [.regWrite 0x0C off, .regWrite 0x10 len, Script.cmd .adlerBuf]

/-! ### The layout of a PNG stream -/

/-- The type tags as byte sequences (R161). -/
def tagBytes (tag : Word) : List Byte := bytesBE tag

/-- A chunk (R160): length, type tag, data, CRC trailer over tag and data. -/
def chunkBytes (tag : Word) (data : List Byte) : List Byte :=
  bytesBE (low32 data.length) ++ tagBytes tag ++ data ++ bytesBE (crc32 (tagBytes tag ++ data))

/-- The 13 data bytes of an IHDR chunk (R165). -/
def ihdrData (width height : Word) (bitdepth color comp filter interlace : Byte) : List Byte :=
  bytesBE width ++ bytesBE height ++ [bitdepth, color, comp, filter, interlace]

/-- A well-formed minimal stream (R175): signature, one IHDR, one IDAT and one IEND chunk. -/
def pngBytes (width height : Word) (bitdepth color comp filter interlace : Byte) (payload : List Byte) : List Byte :=
  signature ++ chunkBytes tagIhdr (ihdrData width height bitdepth color comp filter interlace)
    ++ chunkBytes tagIdat payload ++ chunkBytes tagIend []

/-! ### The shape of a Huffman tree -/

/-- The weight of node `k` (R49), 0 where there is none. -/
def weightAt (ns : List HNode) (k : Nat) : Nat := ((ns[k]?).map HNode.weight).getD 0

/-- Node `k` is the `LEFT` or the `RIGHT` of the internal node `p` (R49). -/
def childOf (ns : List HNode) (k p : Nat) : Prop := ∃ w l r, ns[p]? = some (.internal w l r) ∧ (k = l ∨ k = r)

/-- Node `k` is in the live set when node `p` is made (R204): it exists and no node made before `p` has taken it. -/
def liveAt (ns : List HNode) (p k : Nat) : Prop := k < p ∧ ∀ q, q < p → ¬ childOf ns k q

/-- Node `x` is lighter than node `y` (R203). -/
def nodeLighter (ns : List HNode) (x y : Nat) : Prop :=
  weightAt ns x < weightAt ns y ∨ weightAt ns x = weightAt ns y ∧ x < y

/-- Decoding by the tree (R215 item 4): from the root, left on 0 and right on 1; at a leaf its symbol is emitted and
the walk is back at the root. It answers the symbols, and whether it ended at a root visit (V48). -/
def treeDecode (ns : List HNode) (root : Nat) : Nat → List Bool → List Byte × Bool
  | k, [] => ([], k == root)
  | k, b :: bs =>
    match ns[k]? with
    | some (.internal _ l r) =>
      let next := if b then r else l
      match ns[next]? with
      | some (.leaf sym _) =>
        let rest := treeDecode ns root root bs
        (sym :: rest.1, rest.2)
      | _ => treeDecode ns root next bs
    | _ => ([], false)

/-- The code of a symbol in the table the state holds (R50); empty where it has no entry. -/
def State.codeOf (s : State) (b : Byte) : List Bool := (Table.find s.code b.toNat).getD []

/-- The symbol sequence the Huffman builder reads (R200): `SYM[0 .. SYMLEN)`. -/
def State.symbols (s : State) : List Byte := s.symRange 0 s.symlen.toNat

/-- How often a symbol value occurs in the sequence (R201). -/
def State.count (s : State) (b : Byte) : Nat := s.symbols.countP fun x => x == b

/-! ### The invariant -/

/-- R55 (b) and the bounds of R9: lengths within capacities. -/
structure CapacityInv (s : State) : Prop where
  bufCap : 1 ≤ s.bufCap ∧ s.bufCap ≤ 2 ^ 32 - 1
  symCap : 1 ≤ s.symCap ∧ s.symCap ≤ 2 ^ 32 - 1
  buflen : s.buflen.toNat ≤ s.bufCap
  symlen : s.symlen.toNat ≤ s.symCap

/-- R55 (a), (c): the sums are reduced, and `CFG[31:2]` is 0. -/
structure RegisterInv (s : State) : Prop where
  adlerA : s.adlerA.toNat < 65521
  adlerB : s.adlerB.toNat < 65521
  cfg : s.cfg.toNat < 4

/-- R55 (f), (g) and R25: an error is recorded as sticky, no error means no stage and no detail, and only the parser's
errors have a stage. -/
structure StatusInv (s : State) : Prop where
  sticky : s.status.err ≠ .ok → s.status.sticky = true
  clean : s.status.err = .ok → s.status.stage = .none ∧ s.errinfo = 0
  staged : s.status.stage ≠ .none →
    s.status.err ∈ [ErrCode.badSignature, .invalidLength, .unexpectedChunkType, .checksumMismatch, .outOfBounds]

/-- The state with lenient checking: what a record says of BUF does not depend on the policy it was parsed under. -/
def State.lenient (s : State) : State := { s with cfg := 0 }

/-- R55 (d): every record is what its chunk in BUF reads as now, and so lies inside the buffer; R40: `DEC_V` means that
all four are there, threaded as R175 says. -/
structure RecordInv (s : State) : Prop where
  sig : ∀ b, s.sig = some b → s.readSig = .ok b
  ihdr : ∀ r, s.ihdr = some r → s.readIhdr r.off.toNat = .ok r
  idat : ∀ r, s.idat = some r → s.lenient.readIdat r.off.toNat = .ok r
  iend : ∀ r, s.iend = some r → s.lenient.readIend r.off.toNat = .ok r
  decoded : s.decV = true → ∃ b h d e, s.sig = some b ∧ s.ihdr = some h ∧ s.idat = some d ∧ s.iend = some e ∧
    h.off.toNat = 8 ∧ d.off.toNat = 33 ∧ e.off.toNat = 45 + d.len.toNat

/-- R46 to R50: without a tree everything reads 0; with one, NODE and its root are the tree of the counts in FREQ;
without a table CODE is empty; with one, there is a tree and CODE is its table (R55 (e)). -/
structure HuffmanInv (s : State) : Prop where
  noTree : s.treeV = false →
    s.degen = false ∧ s.hnsym = 0 ∧ s.hroot = 0 ∧ s.hnnode = 0 ∧ s.freq = [] ∧ s.node = []
  counts : Table.wf s.freq = true ∧ (∀ p ∈ s.freq, p.1 < 256 ∧ 1 ≤ p.2) ∧ (s.freq.map Prod.snd).sum < 2 ^ 32
  tree : s.treeV = true →
    1 ≤ s.freq.length ∧ s.hnsym = low32 s.freq.length ∧ s.hnnode = low32 (2 * s.freq.length - 1) ∧
    s.node = (buildTree s.freq).1 ∧ s.hroot = low32 (buildTree s.freq).2 ∧ (s.degen = true ↔ s.freq.length = 1)
  noTable : s.tableV = false → s.code = []
  table : s.tableV = true → s.treeV = true ∧
    (s.degen = false → s.code = codeTable s.node s.hroot.toNat) ∧
    (s.degen = true → ∃ sym w, s.node = [.leaf sym w] ∧ s.code = [(sym.toNat, [false])])

/-- BUF and SYM are in their canonical form, and no index at or above the capacity has been written (R70). -/
structure MemoryInv (s : State) : Prop where
  buf : Memory.wf s.buf = true ∧ ∀ c ∈ s.buf, c.1 < s.bufCap
  sym : Memory.wf s.sym = true ∧ ∀ c ∈ s.sym, c.1 < s.symCap

/-- The invariant of the machine: R55 and what stands beside it. -/
structure State.Inv (s : State) : Prop where
  capacity : CapacityInv s
  registers : RegisterInv s
  status : StatusInv s
  records : RecordInv s
  huffman : HuffmanInv s
  memory : MemoryInv s

end Sys2Proof.Machine
end

