-- ==== Sys2Proof/Certificates/Slice0/Obligations.lean ====
section
/-! DEFINITION. The statements for the provers, from the numbered rules of the spec; `OBLIGATIONS.json` lists them. -/

open Sys2Proof Sys2Proof.Machine

/-! ### Encoding (R100 to R106) -/

/-- R101, R102: a word decodes to a command exactly when it is that command's encoding, so no two commands share a word
and no bit of an encoding is dropped. -/
def Obligations.DecodeIffEncode : Prop :=
  ∀ (w : Word) (i : Instr), decodeWord w = .legal i ↔ w = encode i

/-- R101: a word decodes to exactly one command when it is legal, and to none otherwise. -/
def Obligations.LegalWordSelectsOneCommand : Prop :=
  ∀ w : Word,
    (WellFormed.legalWord w = true → ∃ i, decodeWord w = .legal i ∧ ∀ j, decodeWord w = .legal j → j = i) ∧
    (WellFormed.legalWord w = false → ∃ why, decodeWord w = .illegal why)

/-- R106: the example words of the spec, written out from the format of R100. -/
def Obligations.ExampleWordsDecode : Prop :=
  decodeWord 0x00000013 = .legal .crc32 ∧ decodeWord 0x00006111 = .legal (.crcByte 0x61) ∧
  decodeWord 0x0000FF21 = .legal (.adlerByte 0xFF) ∧ decodeWord 0x00000113 = .illegal .immediateNotZero ∧
  decodeWord 0x00010000 = .illegal .reservedBits ∧ decodeWord 0x00000002 = .illegal .reservedOpcode ∧
  decodeWord 0x00000000 = .legal .nop

/-! ### The step, and how a command ends (R24, R78, R250 to R259) -/

/-- R24, R78: the next access of the script is what a step performs, and where that is a write of `CMD` with a word that
decodes to a command, the step is `exec` of it at the state left by taking the access from the script; a word placed by
`withFetchWord` is run by the very next step; with no access left the block holds its state. The script and its idle end
are the model's choice (log 1). -/
def Obligations.StepRunsDecodedCommand : Prop :=
  (∀ (s : State) (op : HostOp) (rest : List HostOp), s.script = op :: rest →
    step s = hostAccess op { s with script := rest }) ∧
  (∀ (s : State) (w : Word) (i : Instr), decodeWord w = .legal i → hostAccess (.regWrite 0x00 w) s = exec i s) ∧
  (∀ (s : State) (i : Instr), step (s.withFetchWord 32 (encode i).toNat) = exec i s) ∧
  (∀ s : State, s.script = [] → step s = .next s)

/-- R255: an illegal word written to `CMD` raises `IllegalCommand` with the word as detail, and nothing else changes. -/
def Obligations.IllegalWordRaises : Prop :=
  ∀ (s : State) (w : Word), WellFormed.legalWord w = false →
    ∃ t, hostAccess (.regWrite 0x00 w) s = .next t ∧ EndsRaised .illegalCommand .none w t ∧ t.statusWord = 0x108 ∧
      SystemFrame s t

/-- R253, R254, R290: every command, in every state, ends: without error (`STICKY` kept, or cleared by `CLRERR` alone)
or with one (`STICKY` set). -/
def Obligations.EveryCommandEnds : Prop :=
  ∀ (i : Instr) (s : State), ∃ t, exec i s = .next t ∧
    ((t.status.err = .ok ∧ t.status.stage = .none ∧ t.errinfo = 0 ∧
        t.status.sticky = if i = .clrErr then false else s.status.sticky) ∨
      (t.status.err ≠ .ok ∧ t.status.sticky = true))

/-- R252, R25: a command raises only the errors of its row, a command other than `DECODE` reports its own stage number (0
where it is no parse command), and `DECODE` reports one of the four stages with an error of that stage's command. -/
def Obligations.CommandRaisesOnlyItsErrors : Prop :=
  ∀ (i : Instr) (s t : State), exec i s = .next t → t.status.err ≠ .ok →
    t.status.err ∈ raisable s i ∧ (i ≠ .decode → t.status.stage = stageOf i) ∧
    (i = .decode → ∃ j ∈ [Instr.parseSig, .parseIhdr, .parseIdat, .parseIend],
      t.status.stage = stageOf j ∧ t.status.err ∈ raisable s j)

/-- R75, R257: no command changes BUF, SYM, `ARG0`, `ARG1`, `CFG`, `BUFLEN` or `SYMLEN`. -/
def Obligations.CommandsKeepInputs : Prop :=
  ∀ (i : Instr) (s t : State), exec i s = .next t → SameInputs s t

/-- R25, R27, R40, R46, R250: the ten error codes and the five stage numbers; the bits of `STATUS` (`ERR` in 3:0, `STAGE`
in 6:4, `STICKY` in bit 8, every other bit 0), of `PSTAT` and of `HSTAT`; and the two option bits of `CFG`. -/
def Obligations.StatusAndFlagWordLayouts : Prop :=
  [ErrCode.ok, .badSignature, .invalidLength, .unexpectedChunkType, .checksumMismatch, .emptyInput, .degenerateTree,
    .outOfBounds, .illegalCommand, .noTree].map errNumber = [0, 1, 2, 3, 4, 5, 6, 7, 8, 9] ∧
  [Stage.none, .signature, .ihdr, .idat, .iend].map stageNumber = [0, 1, 2, 3, 4] ∧
  ∀ (s : State) (k : Nat),
    s.statusWord.getLsbD k =
      (if k < 4 then (errNumber s.status.err).testBit k
       else if 4 ≤ k ∧ k < 7 then (stageNumber s.status.stage).testBit (k - 4)
       else k == 8 && s.status.sticky) ∧
    (s.pstat.getLsbD k = true ↔
      (k = 0 ∧ s.sig ≠ none) ∨ (k = 1 ∧ s.ihdr ≠ none) ∨ (k = 2 ∧ s.idat ≠ none) ∨ (k = 3 ∧ s.iend ≠ none) ∨
      (k = 4 ∧ s.decV = true) ∨ (k = 8 ∧ s.ihdr ≠ none) ∨ (k = 9 ∧ ∃ r, s.idat = some r ∧ r.crc = r.crcCalc) ∨
      (k = 10 ∧ ∃ r, s.iend = some r ∧ r.crc = r.crcCalc)) ∧
    (s.hstat.getLsbD k = true ↔
      (k = 0 ∧ s.treeV = true) ∨ (k = 1 ∧ s.tableV = true) ∨ (k = 2 ∧ s.degen = true)) ∧
    (s.strict = true ↔ s.cfg.toNat % 2 = 1) ∧ (s.degenErr = true ↔ s.cfg.toNat / 2 % 2 = 1)

/-! ### System commands (R240, R241) -/

/-- R240: `NOP` clears `ERR`, `STAGE` and `ERRINFO`, keeps `STICKY`, and changes nothing else. -/
def Obligations.NopOnlyClearsTheOutcome : Prop :=
  decodeWord 0x00000000 = .legal .nop ∧
  ∀ s : State, ∃ t, exec .nop s = .next t ∧ EndsOk s t ∧ SystemFrame s t ∧
    t.statusWord = bitAt 8 s.status.sticky

/-- R241: `CLRERR` leaves `STATUS` and `ERRINFO` 0 and changes nothing else, and it is the only command that clears
`STICKY`. -/
def Obligations.ClrErrClearsStatus : Prop :=
  decodeWord 0x00000001 = .legal .clrErr ∧
  (∀ s : State, ∃ t, exec .clrErr s = .next t ∧ t.statusWord = 0 ∧ t.status = ⟨.ok, .none, false⟩ ∧ t.errinfo = 0 ∧
    SystemFrame s t) ∧
  ∀ (i : Instr) (s t : State), exec i s = .next t → s.status.sticky = true → t.status.sticky = false → i = .clrErr

/-! ### CRC-32 (R120 to R130) -/

/-- R128: the table-driven step gives the same register, for every register and byte. -/
def Obligations.TableDrivenCrcAgrees : Prop :=
  ∀ (c : Word) (b : Byte),
    crcStep c b = (c >>> 8) ^^^ crcStep 0 ((c.extractLsb' 0 8) ^^^ b)

/-- R127, R124: the byte enters by exclusive-or, for every byte the step is a bijection on 32-bit words, and an all-zero
register absorbs zero bytes without changing. -/
def Obligations.CrcStepIsBijective : Prop :=
  (∀ b : Byte, (∀ c : Word, crcStep c b = crcStep (c ^^^ zext b) 0) ∧ Function.Bijective (fun c : Word => crcStep c b)) ∧
  ∀ n : Nat, crcFold 0 (List.replicate n 0) = 0

/-- R123: `CRC_INIT` seeds the register, so that `CRC_VALUE` reads 0; twice is the same as once. -/
def Obligations.CrcInitSeeds : Prop :=
  decodeWord 0x00000010 = .legal .crcInit ∧
  ∀ s : State, ∃ t, exec .crcInit s = .next t ∧ EndsOk s t ∧ CrcFrame s t ∧
    t.regValue .crcState = 0xFFFFFFFF ∧ t.regValue .crcValue = 0 ∧ exec .crcInit t = .next t

/-- R124: `CRC_BYTE #imm8` makes one byte step; a zero byte takes the seed to `0x2DFD1072`, and the byte `0x61` takes it
to `0x174841BC`, of which `CRC_VALUE` reads `0xE8B7BE43`. -/
def Obligations.CrcByteSteps : Prop :=
  (∀ b : Byte, decodeWord (0x00000011 ||| (zext b <<< 8)) = .legal (.crcByte b)) ∧
  (∀ (s : State) (b : Byte), ∃ t, exec (.crcByte b) s = .next t ∧ EndsOk s t ∧ CrcFrame s t ∧
    t.crcState = crcStep s.crcState b) ∧
  crcStep 0xFFFFFFFF 0x00 = 0x2DFD1072 ∧ crcStep 0xFFFFFFFF 0x61 = 0x174841BC ∧ crc32 [0x61] = 0xE8B7BE43

/-- R125: `CRC_BUF` absorbs the range when it lies in the buffer; otherwise it raises `OutOfBounds` with `ARG0` and
absorbs nothing. The sum is over the naturals. -/
def Obligations.CrcBufAbsorbsRange : Prop :=
  decodeWord 0x00000012 = .legal .crcBuf ∧
  ∀ s : State,
    (s.arg0.toNat + s.arg1.toNat ≤ s.buflen.toNat →
      ∃ t, exec .crcBuf s = .next t ∧ EndsOk s t ∧ CrcFrame s t ∧
        t.crcState = (s.bufRange s.arg0.toNat s.arg1.toNat).foldl crcStep s.crcState) ∧
    (s.buflen.toNat < s.arg0.toNat + s.arg1.toNat →
      ∃ t, exec .crcBuf s = .next t ∧ EndsRaised .outOfBounds .none s.arg0 t ∧ CrcFrame s t ∧
        t.crcState = s.crcState)

/-- R126: `CRC32` leaves `CRC_VALUE` the checksum of the range, whatever the accumulator held; outside the buffer it
raises `OutOfBounds` and does not even seed. -/
def Obligations.Crc32LeavesChecksum : Prop :=
  decodeWord 0x00000013 = .legal .crc32 ∧
  ∀ s : State,
    (s.arg0.toNat + s.arg1.toNat ≤ s.buflen.toNat →
      ∃ t, exec .crc32 s = .next t ∧ EndsOk s t ∧ CrcFrame s t ∧
        t.crcState = crc32 (s.bufRange s.arg0.toNat s.arg1.toNat) ^^^ 0xFFFFFFFF ∧
        t.regValue .crcValue = crc32 (s.bufRange s.arg0.toNat s.arg1.toNat)) ∧
    (s.buflen.toNat < s.arg0.toNat + s.arg1.toNat →
      ∃ t, exec .crc32 s = .next t ∧ EndsRaised .outOfBounds .none s.arg0 t ∧ CrcFrame s t ∧
        t.crcState = s.crcState)

/-- R122: seeding once, absorbing a message in any number of `CRC_BYTE` and `CRC_BUF` commands and reading `CRC_VALUE`
gives `crc32` of the whole message. The law is the spec's inference, the run the model's script (log 1, log 2). -/
def Obligations.IncrementalCrcIsCrcOfMessage : Prop :=
  ∀ (s : State) (pieces : List Piece), (∀ p ∈ pieces, p.inBuffer s) →
    ∃ t, runScript (Script.cmd .crcInit :: pieces.flatMap Piece.crcOps ++ [.regRead 0x24]) s = .next t ∧
      t.reads = s.reads ++ [crc32 (pieces.flatMap (Piece.bytes s))]

/-! ### Adler-32 (R140 to R150) -/

/-- R148: reducing after every byte gives what one reduction at the end gives: `a` is 1 plus the sum of the bytes and `b`
the sum of the values `a` has taken. -/
def Obligations.AdlerEqualsDeferredSums : Prop :=
  ∀ bytes : List Byte,
    adlerFold (1, 0) bytes =
      ((1 + (bytes.map BitVec.toNat).sum) % 65521,
        ((List.range bytes.length).map fun k => 1 + ((bytes.take (k + 1)).map BitVec.toNat).sum).sum % 65521)

/-- R141, R143: the checksum of the empty sequence is 1, its halves are the two sums, and its four bytes, big-endian, give
it back. -/
def Obligations.AdlerHalvesAndBytes : Prop :=
  adler32 [] = 0x00000001 ∧
  ∀ bytes : List Byte,
    (adler32 bytes).toNat % 65536 = (bytes.foldl adlerStep (1, 0)).1 ∧
    (adler32 bytes).toNat / 65536 = (bytes.foldl adlerStep (1, 0)).2 ∧
    ∃ b0 b1 b2 b3, bytesBE (adler32 bytes) = [b0, b1, b2, b3] ∧ packBE b0 b1 b2 b3 = adler32 bytes ∧
      b0.toNat * 256 + b1.toNat = (bytes.foldl adlerStep (1, 0)).2 ∧
      b2.toNat * 256 + b3.toNat = (bytes.foldl adlerStep (1, 0)).1

/-- R144: `ADLER_INIT` loads the sums 1 and 0; twice is the same as once. -/
def Obligations.AdlerInitLoadsOneZero : Prop :=
  decodeWord 0x00000020 = .legal .adlerInit ∧
  ∀ s : State, ∃ t, exec .adlerInit s = .next t ∧ EndsOk s t ∧ AdlerFrame s t ∧
    t.regValue .adlerA = 1 ∧ t.regValue .adlerB = 0 ∧ t.regValue .adlerValue = 1 ∧ exec .adlerInit t = .next t

/-- R145: `ADLER_BYTE #imm8`: `a` takes the byte, `b` takes the new `a`, each reduced modulo 65521. -/
def Obligations.AdlerByteSteps : Prop :=
  (∀ b : Byte, decodeWord (0x00000021 ||| (zext b <<< 8)) = .legal (.adlerByte b)) ∧
  ∀ (s : State) (x : Byte), ∃ t, exec (.adlerByte x) s = .next t ∧ EndsOk s t ∧ AdlerFrame s t ∧
    t.adlerA.toNat = (s.adlerA.toNat + x.toNat) % 65521 ∧
    t.adlerB.toNat = (s.adlerB.toNat + t.adlerA.toNat) % 65521

/-- R146: `ADLER_BUF` steps through the range when it lies in the buffer; otherwise it raises `OutOfBounds` with `ARG0`
and the sums stay. -/
def Obligations.AdlerBufAbsorbsRange : Prop :=
  decodeWord 0x00000022 = .legal .adlerBuf ∧
  ∀ s : State,
    (s.arg0.toNat + s.arg1.toNat ≤ s.buflen.toNat →
      ∃ t, exec .adlerBuf s = .next t ∧ EndsOk s t ∧ AdlerFrame s t ∧
        (t.adlerA.toNat, t.adlerB.toNat) =
          (s.bufRange s.arg0.toNat s.arg1.toNat).foldl adlerStep (s.adlerA.toNat, s.adlerB.toNat)) ∧
    (s.buflen.toNat < s.arg0.toNat + s.arg1.toNat →
      ∃ t, exec .adlerBuf s = .next t ∧ EndsRaised .outOfBounds .none s.arg0 t ∧ AdlerFrame s t ∧ SameAdler s t)

/-- R147: `ADLER32` leaves `ADLER_VALUE` the checksum of the range, `ADLER_A` its low half and `ADLER_B` its high half;
outside the buffer it raises `OutOfBounds` and the sums stay. -/
def Obligations.Adler32LeavesChecksum : Prop :=
  decodeWord 0x00000023 = .legal .adler32 ∧
  ∀ s : State,
    (s.arg0.toNat + s.arg1.toNat ≤ s.buflen.toNat →
      ∃ t, exec .adler32 s = .next t ∧ EndsOk s t ∧ AdlerFrame s t ∧
        t.adlerA.toNat = (adler32 (s.bufRange s.arg0.toNat s.arg1.toNat)).toNat % 65536 ∧
        t.adlerB.toNat = (adler32 (s.bufRange s.arg0.toNat s.arg1.toNat)).toNat / 65536 ∧
        t.regValue .adlerValue = adler32 (s.bufRange s.arg0.toNat s.arg1.toNat)) ∧
    (s.buflen.toNat < s.arg0.toNat + s.arg1.toNat →
      ∃ t, exec .adler32 s = .next t ∧ EndsRaised .outOfBounds .none s.arg0 t ∧ AdlerFrame s t ∧ SameAdler s t)

/-- R126, R147, the sentences "It is exactly `CRC_INIT` followed by `CRC_BUF` as one command" and the same of Adler-32,
which the spec marks as its inferences: on a range in the buffer the one-shot command leaves the very state the two
commands leave. -/
def Obligations.OneShotIsInitThenBuf : Prop :=
  ∀ s : State, s.arg0.toNat + s.arg1.toNat ≤ s.buflen.toNat →
    (∃ u t, exec .crcInit s = .next u ∧ exec .crcBuf u = .next t ∧ exec .crc32 s = .next t) ∧
    (∃ u t, exec .adlerInit s = .next u ∧ exec .adlerBuf u = .next t ∧ exec .adler32 s = .next t)

/-- R142: initialising once, absorbing a message in any number of `ADLER_BYTE` and `ADLER_BUF` commands and reading
`ADLER_VALUE` gives `adler32` of the whole message. The law is the spec's inference, the run the model's script (log 1, log 2). -/
def Obligations.IncrementalAdlerIsAdlerOfMessage : Prop :=
  ∀ (s : State) (pieces : List Piece), (∀ p ∈ pieces, p.inBuffer s) →
    ∃ t, runScript (Script.cmd .adlerInit :: pieces.flatMap Piece.adlerOps ++ [.regRead 0x30]) s = .next t ∧
      t.reads = s.reads ++ [adler32 (pieces.flatMap (Piece.bytes s))]

/-! ### Chunk parser (R160 to R179) -/

/-- R164: `PARSE_SIG` succeeds when the buffer begins with the 8 signature bytes, whatever `POFF` is, and otherwise raises
`BadSignature`. -/
def Obligations.ParseSigChecksMagic : Prop :=
  decodeWord 0x00000030 = .legal .parseSig ∧
  ∀ s : State,
    (8 ≤ s.buflen.toNat ∧ s.bufRange 0 8 = [0x89, 0x50, 0x4E, 0x47, 0x0D, 0x0A, 0x1A, 0x0A] →
      ∃ t, exec .parseSig s = .next t ∧ ParseEnds .parseSig 0 8 s t ∧
        t.sig = some [0x89, 0x50, 0x4E, 0x47, 0x0D, 0x0A, 0x1A, 0x0A] ∧
        t.regValue .sigHi = 0x89504E47 ∧ t.regValue .sigLo = 0x0D0A1A0A) ∧
    (¬ (8 ≤ s.buflen.toNat ∧ s.bufRange 0 8 = [0x89, 0x50, 0x4E, 0x47, 0x0D, 0x0A, 0x1A, 0x0A]) →
      ∃ t, exec .parseSig s = .next t ∧ ParseFails .parseSig .badSignature 0 s t)

/-- R166: `PARSE_IHDR`: the record of a chunk that passes every check, and the first error in the order length, tag,
data, trailer, with the bounds test of each field before its read. The five one-byte fields take any value (R167). -/
def Obligations.ParseIhdrReadsChunk : Prop :=
  decodeWord 0x00000031 = .legal .parseIhdr ∧
  ∀ (s : State) (o : Nat), o = s.poff.toNat →
    (o + 25 ≤ s.buflen.toNat → s.be32 o = 13 → s.be32 (o + 4) = 0x49484452 →
      s.be32 (o + 21) = crc32 (s.bufRange (o + 4) 17) →
      ∃ t, exec .parseIhdr s = .next t ∧ ParseEnds .parseIhdr o 25 s t ∧
        t.ihdr = some
          { off := s.poff, len := 13, type := 0x49484452, width := s.be32 (o + 8), height := s.be32 (o + 12)
            bitdepth := s.bufByte (o + 16), color := s.bufByte (o + 17), comp := s.bufByte (o + 18)
            filter := s.bufByte (o + 19), interlace := s.bufByte (o + 20), crc := s.be32 (o + 21)
            crcCalc := crc32 (s.bufRange (o + 4) 17) }) ∧
    (s.buflen.toNat < o + 4 →
      ∃ t, exec .parseIhdr s = .next t ∧ ParseFails .parseIhdr .outOfBounds s.poff s t) ∧
    (o + 4 ≤ s.buflen.toNat → s.be32 o ≠ 13 →
      ∃ t, exec .parseIhdr s = .next t ∧ ParseFails .parseIhdr .invalidLength (s.be32 o) s t) ∧
    (o + 4 ≤ s.buflen.toNat → s.be32 o = 13 → s.buflen.toNat < o + 8 →
      ∃ t, exec .parseIhdr s = .next t ∧ ParseFails .parseIhdr .outOfBounds (s.poff + 4) s t) ∧
    (o + 8 ≤ s.buflen.toNat → s.be32 o = 13 → s.be32 (o + 4) ≠ 0x49484452 →
      ∃ t, exec .parseIhdr s = .next t ∧ ParseFails .parseIhdr .unexpectedChunkType (s.be32 (o + 4)) s t) ∧
    (o + 8 ≤ s.buflen.toNat → s.be32 o = 13 → s.be32 (o + 4) = 0x49484452 → s.buflen.toNat < o + 21 →
      ∃ t, exec .parseIhdr s = .next t ∧ ParseFails .parseIhdr .outOfBounds (s.poff + 8) s t) ∧
    (o + 21 ≤ s.buflen.toNat → s.be32 o = 13 → s.be32 (o + 4) = 0x49484452 → s.buflen.toNat < o + 25 →
      ∃ t, exec .parseIhdr s = .next t ∧ ParseFails .parseIhdr .outOfBounds (s.poff + 21) s t) ∧
    (o + 25 ≤ s.buflen.toNat → s.be32 o = 13 → s.be32 (o + 4) = 0x49484452 →
      s.be32 (o + 21) ≠ crc32 (s.bufRange (o + 4) 17) →
      ∃ t, exec .parseIhdr s = .next t ∧
        ParseFails .parseIhdr .checksumMismatch (crc32 (s.bufRange (o + 4) 17)) s t)

/-- R169, R170: `PARSE_IDAT`, for every length `n` the chunk states: the record and the two CRC values in both modes, the
trailer enforced in strict mode only, the errors in their order, and no length illegal. -/
def Obligations.ParseIdatReadsChunk : Prop :=
  decodeWord 0x00000032 = .legal .parseIdat ∧
  ∀ (s : State) (o n : Nat), o = s.poff.toNat → n = (s.be32 o).toNat →
    (o + 12 + n ≤ s.buflen.toNat → s.be32 (o + 4) = 0x49444154 →
      (s.strict = true → s.be32 (o + 8 + n) = crc32 (s.bufRange (o + 4) (4 + n))) →
      ∃ t, exec .parseIdat s = .next t ∧ ParseEnds .parseIdat o (12 + n) s t ∧
        ∃ r, t.idat = some r ∧ r.off = s.poff ∧ r.len = s.be32 o ∧ r.type = 0x49444154 ∧ r.dataOff.toNat = o + 8 ∧
          r.crc = s.be32 (o + 8 + n) ∧ r.crcCalc = crc32 (s.bufRange (o + 4) (4 + n)) ∧
          (r.crcOk = true ↔ r.crc = r.crcCalc) ∧ r.chunkLen.toNat = 12 + n) ∧
    (s.buflen.toNat < o + 4 →
      ∃ t, exec .parseIdat s = .next t ∧ ParseFails .parseIdat .outOfBounds s.poff s t) ∧
    (o + 4 ≤ s.buflen.toNat → s.buflen.toNat < o + 8 →
      ∃ t, exec .parseIdat s = .next t ∧ ParseFails .parseIdat .outOfBounds (s.poff + 4) s t) ∧
    (o + 8 ≤ s.buflen.toNat → s.be32 (o + 4) ≠ 0x49444154 →
      ∃ t, exec .parseIdat s = .next t ∧ ParseFails .parseIdat .unexpectedChunkType (s.be32 (o + 4)) s t) ∧
    (o + 8 ≤ s.buflen.toNat → s.be32 (o + 4) = 0x49444154 → s.buflen.toNat < o + 8 + n →
      ∃ t, exec .parseIdat s = .next t ∧ ParseFails .parseIdat .outOfBounds (s.poff + 8) s t) ∧
    (o + 8 + n ≤ s.buflen.toNat → s.be32 (o + 4) = 0x49444154 → s.buflen.toNat < o + 12 + n →
      ∃ t, exec .parseIdat s = .next t ∧ ParseFails .parseIdat .outOfBounds (s.poff + 8 + s.be32 o) s t) ∧
    (o + 12 + n ≤ s.buflen.toNat → s.be32 (o + 4) = 0x49444154 → s.strict = true →
      s.be32 (o + 8 + n) ≠ crc32 (s.bufRange (o + 4) (4 + n)) →
      ∃ t, exec .parseIdat s = .next t ∧
        ParseFails .parseIdat .checksumMismatch (crc32 (s.bufRange (o + 4) (4 + n))) s t)

/-- R172, R173: `PARSE_IEND`: the record, whose computed CRC is always `0xAE426082`, the trailer enforced in strict mode
only, and the errors in their order. -/
def Obligations.ParseIendReadsChunk : Prop :=
  decodeWord 0x00000033 = .legal .parseIend ∧
  ∀ (s : State) (o : Nat), o = s.poff.toNat →
    (o + 12 ≤ s.buflen.toNat → s.be32 o = 0 → s.be32 (o + 4) = 0x49454E44 →
      (s.strict = true → s.be32 (o + 8) = 0xAE426082) →
      ∃ t, exec .parseIend s = .next t ∧ ParseEnds .parseIend o 12 s t ∧
        t.iend = some
          { off := s.poff, len := 0, type := 0x49454E44, crc := s.be32 (o + 8), crcCalc := 0xAE426082
            crcOk := s.be32 (o + 8) == 0xAE426082 }) ∧
    (s.buflen.toNat < o + 4 →
      ∃ t, exec .parseIend s = .next t ∧ ParseFails .parseIend .outOfBounds s.poff s t) ∧
    (o + 4 ≤ s.buflen.toNat → s.be32 o ≠ 0 →
      ∃ t, exec .parseIend s = .next t ∧ ParseFails .parseIend .invalidLength (s.be32 o) s t) ∧
    (o + 4 ≤ s.buflen.toNat → s.be32 o = 0 → s.buflen.toNat < o + 8 →
      ∃ t, exec .parseIend s = .next t ∧ ParseFails .parseIend .outOfBounds (s.poff + 4) s t) ∧
    (o + 8 ≤ s.buflen.toNat → s.be32 o = 0 → s.be32 (o + 4) ≠ 0x49454E44 →
      ∃ t, exec .parseIend s = .next t ∧ ParseFails .parseIend .unexpectedChunkType (s.be32 (o + 4)) s t) ∧
    (o + 8 ≤ s.buflen.toNat → s.be32 o = 0 → s.be32 (o + 4) = 0x49454E44 → s.buflen.toNat < o + 12 →
      ∃ t, exec .parseIend s = .next t ∧ ParseFails .parseIend .outOfBounds (s.poff + 8) s t) ∧
    (o + 12 ≤ s.buflen.toNat → s.be32 o = 0 → s.be32 (o + 4) = 0x49454E44 → s.strict = true →
      s.be32 (o + 8) ≠ 0xAE426082 →
      ∃ t, exec .parseIend s = .next t ∧ ParseFails .parseIend .checksumMismatch 0xAE426082 s t)

/-- R174, R175: `DECODE` of a buffer that begins with a well-formed minimal stream recovers, in both modes, the width,
height and fields it was made with, threads the offsets as R175 says, and reports the length of the stream; bytes after
the stream are not examined (R176). -/
def Obligations.DecodeRecoversStream : Prop :=
  ∀ (s : State) (width height : Word) (bd ct cm fm im : Byte) (payload : List Byte),
    57 + payload.length ≤ s.buflen.toNat →
    s.bufRange 0 (57 + payload.length) = pngBytes width height bd ct cm fm im payload →
    ∃ t h d e, exec .decode s = .next t ∧ EndsOk s t ∧ ParserFrame s t ∧ t.decV = true ∧ t.sig = some signature ∧
      t.ihdr = some h ∧ t.idat = some d ∧ t.iend = some e ∧
      h.off = 8 ∧ h.width = width ∧ h.height = height ∧ h.bitdepth = bd ∧ h.color = ct ∧ h.comp = cm ∧
      h.filter = fm ∧ h.interlace = im ∧
      d.off = 33 ∧ d.len.toNat = payload.length ∧ d.dataOff = 41 ∧ d.crcOk = true ∧
      e.off.toNat = 45 + payload.length ∧ e.crcOk = true ∧
      t.pcons.toNat = 57 + payload.length ∧ t.poff = t.pcons ∧ t.pstat = 0x71F

/-- R176, R257: a failed `DECODE` leaves no record, `DEC_V` 0, `PCONS` 0, and `POFF` at the start of the stage it
reports; it is one of the four. -/
def Obligations.FailedDecodeLeavesNothing : Prop :=
  ∀ s t : State, exec .decode s = .next t → t.status.err ≠ .ok →
    ParserFrame s t ∧ t.sig = none ∧ t.ihdr = none ∧ t.idat = none ∧ t.iend = none ∧ t.decV = false ∧ t.pcons = 0 ∧
    ((t.status.stage = .signature ∧ t.poff = 0) ∨ (t.status.stage = .ihdr ∧ t.poff = 8) ∨
      (t.status.stage = .idat ∧ t.poff = 33) ∨
      (t.status.stage = .iend ∧ t.poff.toNat = 45 + (s.be32 33).toNat))

/-- R174, R179: `DECODE` succeeds exactly when the four `PARSE_*` commands in turn all do, and then leaves what they leave
but for `DEC_V` and `PCONS`; when one fails, `DECODE` surfaces the first failing stage's error unchanged. -/
def Obligations.DecodeEqualsFourParses : Prop :=
  ∀ s t1 t2 t3 t4 t : State, exec .parseSig s = .next t1 → exec .parseIhdr t1 = .next t2 →
    exec .parseIdat t2 = .next t3 → exec .parseIend t3 = .next t4 → exec .decode s = .next t →
    (t.status.err = .ok ↔
      t1.status.err = .ok ∧ t2.status.err = .ok ∧ t3.status.err = .ok ∧ t4.status.err = .ok) ∧
    (t.status.err = .ok →
      t.sig = t4.sig ∧ t.ihdr = t4.ihdr ∧ t.idat = t4.idat ∧ t.iend = t4.iend ∧ t.poff = t4.poff ∧
      t4.decV = false ∧ t4.pcons = 12 ∧ t.decV = true ∧ t.pcons = t.poff) ∧
    (t1.status.err ≠ .ok → t.status = t1.status ∧ t.errinfo = t1.errinfo) ∧
    (t1.status.err = .ok → t2.status.err ≠ .ok → t.status = t2.status ∧ t.errinfo = t2.errinfo) ∧
    (t1.status.err = .ok → t2.status.err = .ok → t3.status.err ≠ .ok →
      t.status = t3.status ∧ t.errinfo = t3.errinfo) ∧
    (t1.status.err = .ok → t2.status.err = .ok → t3.status.err = .ok → t4.status.err ≠ .ok →
      t.status = t4.status ∧ t.errinfo = t4.errinfo)

/-- R29, R75: the bytes of BUF at or above `BUFLEN` and the symbols of SYM at or above `SYMLEN` are read by no command:
two states that differ only there take any command to states that differ only there. -/
def Obligations.BytesBeyondLengthsUnread : Prop :=
  ∀ (i : Instr) (s u : State), u = { s with buf := u.buf, sym := u.sym } →
    (∀ a, a < s.buflen.toNat → u.bufByte a = s.bufByte a) →
    (∀ a, a < s.symlen.toNat → u.symByte a = s.symByte a) →
    ∀ t, exec i s = .next t → exec i u = .next { t with buf := u.buf, sym := u.sym }

/-! ### Huffman (R200 to R219) -/

/-- R206, R207: `HUFF_TREE` of an empty sequence raises `EmptyInput` and discards any earlier tree and table. -/
def Obligations.HuffTreeOfNothingRaises : Prop :=
  ∀ s : State, s.symlen = 0 →
    ∃ t, exec .huffTree s = .next t ∧ EndsRaised .emptyInput .none 0 t ∧ HuffmanFrame s t ∧
      exec .huffAll s = .next t ∧ t.hstat = 0 ∧ t.hnsym = 0 ∧ t.hroot = 0 ∧ t.hnnode = 0 ∧
      (∀ k, t.freqWord k = 0) ∧ (∀ k, t.nodeWord k = 0) ∧ (∀ k, t.codeWord k = 0)

/-- R206, R201, R202, R205, R48, R47: `HUFF_TREE` counts the symbols, makes the leaves in symbol order and ends with
`2n - 1` nodes and root `2n - 2`; any earlier table is discarded. -/
def Obligations.HuffTreeCountsAndRoot : Prop :=
  decodeWord 0x00000040 = .legal .huffTree ∧
  ∀ s : State, s.symlen ≠ 0 →
    ∃ t n, exec .huffTree s = .next t ∧ EndsOk s t ∧ HuffmanFrame s t ∧
      (∀ b : Byte, t.freqWord b.toNat = low32 (s.count b)) ∧
      n = ((List.range 256).filter fun v => decide (0 < s.count (BitVec.ofNat 8 v))).length ∧ 1 ≤ n ∧ n ≤ 256 ∧
      t.hnsym.toNat = n ∧ t.hnnode.toNat = 2 * n - 1 ∧ t.hroot.toNat = 2 * n - 2 ∧
      t.node.length = 2 * n - 1 ∧
      t.node.take n = ((List.range 256).filter fun v => decide (0 < s.count (BitVec.ofNat 8 v))).map
        (fun v => HNode.leaf (BitVec.ofNat 8 v) (s.count (BitVec.ofNat 8 v))) ∧
      t.treeV = true ∧ t.tableV = false ∧ t.code = [] ∧ (t.degen = true ↔ n = 1)

/-- R203, R204: the nodes after the leaves are made one at a time, each with the next free index; every merge removes the
two lightest live nodes, the first the left child and the second the right one; the new node weighs their sum; and at the
end one node is left, the root. -/
def Obligations.EachMergeTakesTheTwoLightest : Prop :=
  ∀ s t : State, exec .huffTree s = .next t → t.status.err = .ok →
    (∀ k, k < t.hnsym.toNat → ∃ sym w, t.node[k]? = some (.leaf sym w)) ∧
    (∀ p, t.hnsym.toNat ≤ p → p < t.node.length → ∃ w l r, t.node[p]? = some (.internal w l r)) ∧
    (∀ p w l r, t.node[p]? = some (.internal w l r) →
      liveAt t.node p l ∧ liveAt t.node p r ∧ l ≠ r ∧ w = weightAt t.node l + weightAt t.node r ∧
      nodeLighter t.node l r ∧ ∀ k, liveAt t.node p k → k ≠ l → k ≠ r → nodeLighter t.node r k) ∧
    (∀ k, liveAt t.node t.node.length k ↔ k = t.hroot.toNat)

/-- R49, R209: every node but the root is the child of exactly one internal node, the root of none; the root weighs
`SYMLEN`, every weight is between 1 and `SYMLEN`, and the weights of the internal nodes do not fall. -/
def Obligations.TreeOwnershipAndWeights : Prop :=
  ∀ s t : State, exec .huffTree s = .next t → t.status.err = .ok →
    (∀ k, k < t.hroot.toNat → ∃ p, childOf t.node k p ∧ ∀ q, childOf t.node k q → q = p) ∧
    (∀ p, ¬ childOf t.node t.hroot.toNat p) ∧
    weightAt t.node t.hroot.toNat = s.symlen.toNat ∧
    (∀ k, k < t.node.length → 1 ≤ weightAt t.node k ∧ weightAt t.node k ≤ s.symlen.toNat) ∧
    (∀ p q, t.hnsym.toNat ≤ p → p ≤ q → q < t.node.length → weightAt t.node p ≤ weightAt t.node q)

/-- R201: the order of the input does not matter: sequences with the same counts give the same tree and table. -/
def Obligations.TreeDependsOnCountsOnly : Prop :=
  ∀ s u s' u' : State, s.symlen = u.symlen → s.cfg = u.cfg → (∀ b : Byte, s.count b = u.count b) →
    exec .huffAll s = .next s' → exec .huffAll u = .next u' →
    SameTree s' u' ∧ SameTable s' u' ∧ u'.status.err = s'.status.err

/-- R216: `HUFF_ALL` is `HUFF_TREE`, and if that did not raise, `HUFF_TABLE` after it; its errors are `EmptyInput`, and
`DegenerateTree` with a valid tree and no table. -/
def Obligations.HuffAllIsTreeThenTable : Prop :=
  decodeWord 0x00000042 = .legal .huffAll ∧
  (∀ s : State, s.symlen ≠ 0 →
    ∃ u t, exec .huffTree s = .next u ∧ exec .huffTable u = .next t ∧ exec .huffAll s = .next t ∧
      HuffmanFrame s t ∧ t.treeV = true ∧ (s.degenErr = false → EndsOk s t ∧ t.tableV = true)) ∧
  (∀ s : State, s.symlen = 0 → ∃ t, exec .huffTree s = .next t ∧ exec .huffAll s = .next t ∧
    EndsRaised .emptyInput .none 0 t ∧ t.treeV = false ∧ t.tableV = false) ∧
  (∀ s t : State, exec .huffAll s = .next t → t.status.err ≠ .ok → s.symlen ≠ 0 →
    EndsRaised .degenerateTree .none 0 t ∧ s.degenErr = true ∧ t.treeV = true ∧ t.tableV = false)

/-- R213, R214, R257: `HUFF_TABLE` without a tree raises `NoTree` and changes nothing else, in every state (log 11: R257,
the spec's inference, and the pseudocode of R212; in a state with a table and no tree, which no run reaches, R212's prose
reads otherwise); on a single-leaf tree it gives the one symbol the code `0`, or raises `DegenerateTree` when `DEGEN_ERR`
is set, as `HUFF_ALL` does, and the tree stays. -/
def Obligations.HuffTableEdgeCases : Prop :=
  decodeWord 0x00000041 = .legal .huffTable ∧
  (∀ s : State, s.treeV = false →
    ∃ t, exec .huffTable s = .next t ∧ EndsRaised .noTree .none 0 t ∧ HuffmanFrame s t ∧ SameTree s t ∧
      SameTable s t) ∧
  (∀ (s : State) (sym : Byte) (w : Nat), s.treeV = true → s.degen = true → s.node = [.leaf sym w] → s.hroot = 0 →
    s.degenErr = false →
    ∃ t, exec .huffTable s = .next t ∧ EndsOk s t ∧ HuffmanFrame s t ∧ SameTree s t ∧ t.tableV = true ∧
      t.codeOf sym = [false] ∧ ∀ k, k / 16 ≠ sym.toNat → t.codeWord k = 0) ∧
  (∀ s : State, s.treeV = true → s.degen = true → s.degenErr = true →
    ∃ t, exec .huffTable s = .next t ∧ EndsRaised .degenerateTree .none 0 t ∧ HuffmanFrame s t ∧ SameTree s t ∧
      t.tableV = false ∧ ∀ k, t.codeWord k = 0) ∧
  (∀ s u : State, exec .huffTree s = .next u → u.status.err = .ok → u.degen = true → s.degenErr = true →
    ∃ t, exec .huffAll s = .next t ∧ EndsRaised .degenerateTree .none 0 t ∧ HuffmanFrame s t ∧ SameTree u t ∧
      t.treeV = true ∧ t.tableV = false ∧ ∀ k, t.codeWord k = 0)

/-- R211, R212: in every state with `TREE_V` 1 and `DEGEN` 0, `HUFF_TABLE` succeeds, leaves the tree, CODE is the table of
the node list held, issuing it again gives the same table, and nothing of an earlier table is left. For a node list that
no `HUFF_TREE` made, success and that table are the model's choice (log 8). -/
def Obligations.HuffTableIsFresh : Prop :=
  ∀ s : State, s.treeV = true → s.degen = false →
    ∃ t, exec .huffTable s = .next t ∧ EndsOk s t ∧ HuffmanFrame s t ∧ SameTree s t ∧ t.tableV = true ∧
      t.code = codeTable s.node s.hroot.toNat ∧ exec .huffTable t = .next t ∧
      ∀ u : State, u = { s with code := u.code, tableV := u.tableV } → exec .huffTable u = .next t

/-- R215 items 1 and 2, R212: the table of any sequence has exactly one entry per distinct symbol, the codes are
distinct, and none is the beginning of another. -/
def Obligations.CodesArePrefixFree : Prop :=
  ∀ s t : State, exec .huffAll s = .next t → t.status.err = .ok →
    (∀ b : Byte, (∃ path, Table.find t.code b.toNat = some path) ↔ 0 < s.count b) ∧
    (∀ k, 256 ≤ k → Table.find t.code k = none) ∧
    ∀ b c : Byte, 0 < s.count b → 0 < s.count c → b ≠ c → ¬ List.IsPrefix (t.codeOf b) (t.codeOf c)

/-- R215 item 3: a symbol that occurs more often has no longer code. -/
def Obligations.MoreFrequentNoLongerCode : Prop :=
  ∀ s t : State, exec .huffAll s = .next t → t.status.err = .ok →
    ∀ b c : Byte, 0 < s.count c → s.count c < s.count b → (t.codeOf b).length ≤ (t.codeOf c).length

/-- R219: with `n` distinct symbols, `n` at least 2, every code has length between 1 and `n - 1`, at most 255. -/
def Obligations.CodeLengthBounds : Prop :=
  ∀ s t : State, exec .huffAll s = .next t → t.status.err = .ok → 2 ≤ t.hnsym.toNat →
    ∀ b : Byte, 0 < s.count b →
      1 ≤ (t.codeOf b).length ∧ (t.codeOf b).length ≤ t.hnsym.toNat - 1 ∧ (t.codeOf b).length ≤ 255

/-- R215 item 4: concatenating the codes of the sequence and decoding by the tree gives the sequence back and ends at a
root visit. -/
def Obligations.TreeDecodesTheEncoding : Prop :=
  ∀ s t : State, exec .huffAll s = .next t → t.status.err = .ok → 2 ≤ t.hnsym.toNat →
    treeDecode t.node t.hroot.toNat t.hroot.toNat (s.symbols.flatMap t.codeOf) = (s.symbols, true)

/-- R50: the words of port CODE: word 0 has `VALID` and the length, path bit `k` is bit `k mod 32` of word
`1 + k div 32`, positions past the path and words 9 to 15 are 0, and a symbol without an entry reads 0 everywhere. -/
def Obligations.CodePortLayout : Prop :=
  ∀ (s : State) (b : Byte),
    (∀ path, Table.find s.code b.toNat = some path → path.length ≤ 255 →
      (s.codeWord (16 * b.toNat)).getLsbD 31 = true ∧ (s.codeWord (16 * b.toNat)).toNat % 2 ^ 31 = path.length ∧
      (∀ k, k < 256 →
        (s.codeWord (16 * b.toNat + 1 + k / 32)).getLsbD (k % 32) = (path[k]?).getD false) ∧
      ∀ j, 9 ≤ j → j ≤ 15 → s.codeWord (16 * b.toNat + j) = 0) ∧
    (Table.find s.code b.toNat = none → ∀ j, j ≤ 15 → s.codeWord (16 * b.toNat + j) = 0)

/-- R49: the words of port NODE: the weight, and the info word's `VALID`, `KIND` and fields; a node that is not there
reads 0 in both words. -/
def Obligations.NodePortLayout : Prop :=
  ∀ (s : State) (k : Nat),
    (s.node[k]? = none → s.nodeWord (2 * k) = 0 ∧ s.nodeWord (2 * k + 1) = 0) ∧
    (∀ sym w, s.node[k]? = some (.leaf sym w) →
      s.nodeWord (2 * k) = low32 w ∧ s.nodeWord (2 * k + 1) = 0x80000000 + zext sym) ∧
    (∀ w l r, s.node[k]? = some (.internal w l r) → l < 512 → r < 512 →
      s.nodeWord (2 * k) = low32 w ∧
      (s.nodeWord (2 * k + 1)).toNat = 2 ^ 31 + 2 ^ 30 + r * 2 ^ 16 + l)

/-! ### Host accesses (R20 to R30, R286, R280) -/

/-- R20, R273 (c): an access has a step exactly when it lies inside its port's size; otherwise it is refused (log 6). -/
def Obligations.AccessOutsidePortRefused : Prop :=
  ∀ (s : State) (op : HostOp),
    (inPort s op → ∃ t, hostAccess op s = .next t) ∧ (¬ inPort s op → ∃ r, hostAccess op s = .refused r)

/-- R22, R23, R34 to R50, R74, R75: a read changes nothing of the block, and a second read returns the same value. What it
returns, offset by offset and port by port: the register, the view of the accumulators, the field of the record (0 where
the record is `none`, R45), the flag words of the layouts stated above, 0 for `CMD` and a reserved offset, the byte of BUF
or symbol of SYM, the count of FREQ (0 where there is none), the words of NODE and CODE of the layouts stated above. That
the returned values are kept in a list is the model's choice (log 2). -/
def Obligations.ReadsChangeNothing : Prop :=
  (∀ (s t : State) (op : HostOp), isRead op = true → hostAccess op s = .next t →
    SameBlock s t ∧ t.script = s.script ∧
      ∃ v u, t.reads = s.reads ++ [v] ∧ hostAccess op t = .next u ∧ u.reads = s.reads ++ [v, v]) ∧
  ∀ s : State,
    (∀ p ∈ [(0x00, 0), (0x04, s.statusWord), (0x08, s.cfg), (0x0C, s.arg0), (0x10, s.arg1), (0x14, s.buflen),
        (0x18, s.symlen), (0x1C, s.errinfo), (0x20, s.crcState), (0x24, ~~~s.crcState), (0x28, s.adlerA),
        (0x2C, s.adlerB), (0x30, (s.adlerB <<< 16) ||| s.adlerA), (0x40, s.poff), (0x44, s.pcons), (0x48, s.pstat),
        (0xC0, s.hstat), (0xC4, s.hnsym), (0xC8, s.hroot), (0xCC, s.hnnode)],
      Returns s (.regRead p.1) p.2) ∧
    (∀ off, off % 4 = 0 → (0x34 ≤ off ∧ off ≤ 0x3C) ∨ (0xB4 ≤ off ∧ off ≤ 0xBC) ∨ (0xD0 ≤ off ∧ off ≤ 0xFC) →
      Returns s (.regRead off) 0) ∧
    (∀ b0 b1 b2 b3 b4 b5 b6 b7, s.sig = some [b0, b1, b2, b3, b4, b5, b6, b7] →
      Returns s (.regRead 0x4C) (packBE b0 b1 b2 b3) ∧ Returns s (.regRead 0x50) (packBE b4 b5 b6 b7)) ∧
    (s.sig = none → ∀ off ∈ [0x4C, 0x50], Returns s (.regRead off) 0) ∧
    (∀ r, s.ihdr = some r →
      ∀ p ∈ [(0x54, r.off), (0x58, r.len), (0x5C, r.type), (0x60, r.width), (0x64, r.height), (0x68, zext r.bitdepth),
        (0x6C, zext r.color), (0x70, zext r.comp), (0x74, zext r.filter), (0x78, zext r.interlace), (0x7C, r.crc),
        (0x80, r.crcCalc)], Returns s (.regRead p.1) p.2) ∧
    (s.ihdr = none → ∀ off, off % 4 = 0 → 0x54 ≤ off → off ≤ 0x80 → Returns s (.regRead off) 0) ∧
    (∀ r, s.idat = some r →
      ∀ p ∈ [(0x84, r.off), (0x88, r.len), (0x8C, r.type), (0x90, r.dataOff), (0x94, r.crc), (0x98, r.crcCalc),
        (0x9C, r.chunkLen)], Returns s (.regRead p.1) p.2) ∧
    (s.idat = none → ∀ off, off % 4 = 0 → 0x84 ≤ off → off ≤ 0x9C → Returns s (.regRead off) 0) ∧
    (∀ r, s.iend = some r →
      ∀ p ∈ [(0xA0, r.off), (0xA4, r.len), (0xA8, r.type), (0xAC, r.crc), (0xB0, r.crcCalc)],
        Returns s (.regRead p.1) p.2) ∧
    (s.iend = none → ∀ off, off % 4 = 0 → 0xA0 ≤ off → off ≤ 0xB0 → Returns s (.regRead off) 0) ∧
    (∀ i, i < s.bufCap → Returns s (.bufRead i) (zext (s.bufByte i))) ∧
    (∀ i, i < s.symCap → Returns s (.symRead i) (zext (s.symByte i))) ∧
    (∀ i n, i < 256 → Table.find s.freq i = some n → Returns s (.freqRead i) (low32 n)) ∧
    (∀ i, i < 256 → Table.find s.freq i = none → Returns s (.freqRead i) 0) ∧
    (∀ k, k < 1022 → Returns s (.nodeRead k) (s.nodeWord k)) ∧
    (∀ k, k < 4096 → Returns s (.codeRead k) (s.codeWord k))

/-- R22, R27, R29, R30, R33: what a read returns after a write of the register: the value for `ARG0`, `ARG1` and `POFF`,
its bits 1:0 for `CFG`, the value or the capacity for `BUFLEN` and `SYMLEN`, 0 for a reserved offset. The run and its
reads are the model's script (log 1, log 2). -/
def Obligations.WrittenRegisterReadsBack : Prop :=
  ∀ (s : State) (v : Word), CapacityInv s →
    (∀ off, off = 0x0C ∨ off = 0x10 ∨ off = 0x40 →
      ∃ t, runScript [.regWrite off v, .regRead off] s = .next t ∧ t.reads = s.reads ++ [v]) ∧
    (∃ t, runScript [.regWrite 0x08 v, .regRead 0x08] s = .next t ∧ t.reads = s.reads ++ [v &&& 3]) ∧
    (∃ t x, runScript [.regWrite 0x14 v, .regRead 0x14] s = .next t ∧ t.reads = s.reads ++ [x] ∧
      x.toNat = min v.toNat s.bufCap) ∧
    (∃ t x, runScript [.regWrite 0x18 v, .regRead 0x18] s = .next t ∧ t.reads = s.reads ++ [x] ∧
      x.toNat = min v.toNat s.symCap) ∧
    (∀ off, off % 4 = 0 → (0x34 ≤ off ∧ off ≤ 0x3C) ∨ (0xB4 ≤ off ∧ off ≤ 0xBC) ∨ (0xD0 ≤ off ∧ off ≤ 0xFC) →
      ∃ t, runScript [.regWrite off v, .regRead off] s = .next t ∧ t.reads = s.reads ++ [0])

/-- R22, R23: a write of a read-only register or of a reserved offset changes nothing and raises nothing: of all offsets
only `CMD`, `CFG`, `ARG0`, `ARG1`, `BUFLEN`, `SYMLEN` and `POFF` take a write. -/
def Obligations.ReadOnlyWritesIgnored : Prop :=
  ∀ (s : State) (off : Nat) (v : Word), off % 4 = 0 → off ≤ 0xFC →
    off ∉ [0x00, 0x08, 0x0C, 0x10, 0x14, 0x18, 0x40] → hostAccess (.regWrite off v) s = .next s

/-- R286: `BufWrite` stores its byte and no other, and with `RegWrite(BUFLEN, v)` clears the records and `DEC_V`, so that
`PSTAT` and the record registers read 0, and leaves `POFF`, `PCONS`, `STATUS`, `ERRINFO`; writes of SYM and `SYMLEN`
invalidate nothing. -/
def Obligations.BufferChangeInvalidatesRecords : Prop :=
  ∀ s : State,
    (∀ i b, i < s.bufCap →
      ∃ t, hostAccess (.bufWrite i b) s = .next t ∧ t.bufByte i = b ∧ (∀ a, a ≠ i → t.bufByte a = s.bufByte a) ∧
        (∀ a, t.symByte a = s.symByte a) ∧ RecordsCleared t ∧ SameRun s t ∧ SameCursor s t ∧ t.status = s.status ∧
        t.errinfo = s.errinfo ∧ SameOperands s t ∧ t.crcState = s.crcState ∧ SameAdler s t ∧ SameTree s t ∧
        SameTable s t) ∧
    (∀ v,
      ∃ t, hostAccess (.regWrite 0x14 v) s = .next t ∧ t.buflen = low32 (min v.toNat s.bufCap) ∧ RecordsCleared t ∧
        SameRun s t ∧ SameCursor s t ∧ t.status = s.status ∧ t.errinfo = s.errinfo ∧ SameMemory s t ∧ t.cfg = s.cfg ∧
        t.arg0 = s.arg0 ∧ t.arg1 = s.arg1 ∧ t.symlen = s.symlen ∧ t.crcState = s.crcState ∧ SameAdler s t ∧
        SameTree s t ∧ SameTable s t) ∧
    (∀ i b, i < s.symCap →
      ∃ t, hostAccess (.symWrite i b) s = .next t ∧ t.symByte i = b ∧ (∀ a, a ≠ i → t.symByte a = s.symByte a) ∧
        (∀ a, t.bufByte a = s.bufByte a) ∧ SameRecords s t ∧ SameRun s t ∧ SameCursor s t ∧ t.status = s.status ∧
        t.errinfo = s.errinfo ∧ SameOperands s t ∧ t.crcState = s.crcState ∧ SameAdler s t ∧ SameTree s t ∧
        SameTable s t) ∧
    (∀ v,
      ∃ t, hostAccess (.regWrite 0x18 v) s = .next t ∧ t.symlen = low32 (min v.toNat s.symCap) ∧ SameRecords s t ∧
        SameTree s t ∧ SameTable s t ∧ SameMemory s t)

/-- R53: what `Reset` leaves, from any state, by the rows of the table of R53; the contents of BUF and SYM are not spoken
of, since R54 leaves them open. -/
def Obligations.ResetLeavesTheTable : Prop :=
  ∀ s : State,
    ∃ t, hostAccess .reset s = .next t ∧ t.statusWord = 0 ∧ t.errinfo = 0 ∧ t.cfg = 0 ∧ t.arg0 = 0 ∧ t.arg1 = 0 ∧
      t.buflen = 0 ∧ t.symlen = 0 ∧ t.regValue .crcState = 0xFFFFFFFF ∧ t.regValue .crcValue = 0 ∧ t.adlerA = 1 ∧
      t.adlerB = 0 ∧ t.regValue .adlerValue = 1 ∧ t.poff = 0 ∧ t.pcons = 0 ∧ RecordsCleared t ∧
      t.treeV = false ∧ t.tableV = false ∧ t.degen = false ∧ t.hstat = 0 ∧ t.hnsym = 0 ∧ t.hroot = 0 ∧ t.hnnode = 0 ∧
      (∀ k, t.freqWord k = 0) ∧ (∀ k, t.nodeWord k = 0) ∧ (∀ k, t.codeWord k = 0)

/-- R281: the first command after reset. -/
def Obligations.FirstCommandAfterReset : Prop :=
  (∀ i ∈ [Instr.crc32, .crcBuf], ∃ t, exec i State.reset = .next t ∧ EndsOk State.reset t ∧ t.regValue .crcValue = 0) ∧
  (∀ i ∈ [Instr.adler32, .adlerBuf],
    ∃ t, exec i State.reset = .next t ∧ EndsOk State.reset t ∧ t.regValue .adlerValue = 1) ∧
  (∀ i ∈ [Instr.parseSig, .decode],
    ∃ t, exec i State.reset = .next t ∧ EndsRaised .badSignature .signature 0 t) ∧
  (∀ i ∈ [Instr.parseIhdr, .parseIdat, .parseIend],
    ∃ t, exec i State.reset = .next t ∧ EndsRaised .outOfBounds (stageOf i) 0 t) ∧
  (∀ i ∈ [Instr.huffTree, .huffAll], ∃ t, exec i State.reset = .next t ∧ EndsRaised .emptyInput .none 0 t) ∧
  ∃ t, exec .huffTable State.reset = .next t ∧ EndsRaised .noTree .none 0 t

/-- R25, R26, R27, R28, R29, R30, R33, R34, R35, R37, R39, R46, R51, R70: each part of the state has its writers, and but
for reset these are: `CLRERR` alone clears `STICKY`; `STATUS` and `ERRINFO` change only by a write of `CMD`; `CRC_STATE` by
the CRC commands; the sums by the Adler commands; `POFF` by the host's write and the parse commands; `PCONS` by the parse
commands; the records and `DEC_V` by the parse commands and the writes of BUF and `BUFLEN`; `CFG`, `ARG0`, `ARG1`, `BUFLEN`
and `SYMLEN` by the host's write of each; a byte of BUF and a symbol of SYM by the host's write of its index; the tree and
the table by the Huffman commands. The capacities never change. -/
def Obligations.StateHasItsWriters : Prop :=
  ∀ (s t : State) (op : HostOp), hostAccess op s = .next t → op ≠ .reset →
    (s.status.sticky = true → t.status.sticky = false → op = Script.cmd .clrErr) ∧
    (t.status ≠ s.status ∨ t.errinfo ≠ s.errinfo → ∃ w, op = .regWrite 0x00 w) ∧
    (t.crcState ≠ s.crcState → op = Script.cmd .crcInit ∨ (∃ b, op = Script.cmd (.crcByte b)) ∨
      op = Script.cmd .crcBuf ∨ op = Script.cmd .crc32) ∧
    (¬ SameAdler s t → op = Script.cmd .adlerInit ∨ (∃ b, op = Script.cmd (.adlerByte b)) ∨
      op = Script.cmd .adlerBuf ∨ op = Script.cmd .adler32) ∧
    (t.poff ≠ s.poff → (∃ v, op = .regWrite 0x40 v) ∨ ∃ i ∈ parseCommands, op = Script.cmd i) ∧
    (t.pcons ≠ s.pcons → ∃ i ∈ parseCommands, op = Script.cmd i) ∧
    (¬ SameRecords s t → (∃ i b, op = .bufWrite i b) ∨ (∃ v, op = .regWrite 0x14 v) ∨
      ∃ i ∈ parseCommands, op = Script.cmd i) ∧
    (t.cfg ≠ s.cfg → ∃ v, op = .regWrite 0x08 v) ∧
    (t.arg0 ≠ s.arg0 → ∃ v, op = .regWrite 0x0C v) ∧
    (t.arg1 ≠ s.arg1 → ∃ v, op = .regWrite 0x10 v) ∧
    (t.buflen ≠ s.buflen → ∃ v, op = .regWrite 0x14 v) ∧
    (t.symlen ≠ s.symlen → ∃ v, op = .regWrite 0x18 v) ∧
    (∀ a, t.bufByte a ≠ s.bufByte a → ∃ b, op = .bufWrite a b) ∧
    (∀ a, t.symByte a ≠ s.symByte a → ∃ b, op = .symWrite a b) ∧
    (¬ SameTree s t → op = Script.cmd .huffTree ∨ op = Script.cmd .huffAll) ∧
    (¬ SameTable s t → op = Script.cmd .huffTree ∨ op = Script.cmd .huffTable ∨ op = Script.cmd .huffAll) ∧
    t.bufCap = s.bufCap ∧ t.symCap = s.symCap

/-! ### Runs of scripts (R107, R108, R292, R294) -/

/-- R108, run by the model's script (log 1, log 2): the pseudo-operations `crc32 off, len` and `adler32 off, len` read the checksums of `BUF[off .. off+len)`. -/
def Obligations.ChecksumPseudoOperations : Prop :=
  ∀ (s : State) (off len : Word), off.toNat + len.toNat ≤ s.buflen.toNat →
    (∃ t, runScript (Script.crc32Of off len) s = .next t ∧
      t.reads = s.reads ++ [crc32 (s.bufRange off.toNat len.toNat)]) ∧
    (∃ t, runScript (Script.adler32Of off len) s = .next t ∧
      t.reads = s.reads ++ [adler32 (s.bufRange off.toNat len.toNat)])

/-- S5, R175, R292: loading a well-formed stream made with a width and a height, giving `DECODE` and reading
`IHDR_WIDTH` and `IHDR_HEIGHT` returns the same integers, from any state of an instance that can hold it (the run is the model's script, log 1, log 2). -/
def Obligations.LoadDecodeReadsWidthAndHeight : Prop :=
  ∀ (s : State) (width height : Word) (bd ct cm fm im : Byte) (payload : List Byte), CapacityInv s →
    57 + payload.length ≤ s.bufCap →
    ∃ t, runScript (Script.load (pngBytes width height bd ct cm fm im payload) ++
        [Script.cmd .decode, .regRead 0x60, .regRead 0x64]) s = .next t ∧
      t.reads = s.reads ++ [width, height] ∧ t.status.err = .ok

/-! ### The invariant (R55) -/

/-- R55, R40, R46, R47, R70: the invariant holds after reset. -/
def Obligations.InvHoldsAtReset : Prop := State.reset.Inv

/-- R55, R40, R46, R47, R70: from every state that meets the invariant, every step that has a next state keeps it. -/
def Obligations.StepKeepsInv : Prop :=
  ∀ s t : State, s.Inv → step s = .next t → t.Inv
end

