-- ==== Sys2Proof/Laws/State.lean ====
section
/-! SUPPORT. One lemma per field per named update of the state, each true by rfl, and the same for the state after
reset, so that no later proof unfolds a record update. -/

namespace Sys2Proof.Machine

variable (s : State)

@[simp] theorem State.finish_script : (s.finish).script = s.script := rfl
@[simp] theorem State.finish_reads : (s.finish).reads = s.reads := rfl
@[simp] theorem State.finish_resets : (s.finish).resets = s.resets := rfl
@[simp] theorem State.finish_bufCap : (s.finish).bufCap = s.bufCap := rfl
@[simp] theorem State.finish_symCap : (s.finish).symCap = s.symCap := rfl
@[simp] theorem State.finish_status : (s.finish).status = { err := .ok, stage := .none, sticky := s.status.sticky } := rfl
@[simp] theorem State.finish_errinfo : (s.finish).errinfo = 0 := rfl
@[simp] theorem State.finish_cfg : (s.finish).cfg = s.cfg := rfl
@[simp] theorem State.finish_arg0 : (s.finish).arg0 = s.arg0 := rfl
@[simp] theorem State.finish_arg1 : (s.finish).arg1 = s.arg1 := rfl
@[simp] theorem State.finish_buflen : (s.finish).buflen = s.buflen := rfl
@[simp] theorem State.finish_symlen : (s.finish).symlen = s.symlen := rfl
@[simp] theorem State.finish_crcState : (s.finish).crcState = s.crcState := rfl
@[simp] theorem State.finish_adlerA : (s.finish).adlerA = s.adlerA := rfl
@[simp] theorem State.finish_adlerB : (s.finish).adlerB = s.adlerB := rfl
@[simp] theorem State.finish_poff : (s.finish).poff = s.poff := rfl
@[simp] theorem State.finish_pcons : (s.finish).pcons = s.pcons := rfl
@[simp] theorem State.finish_sig : (s.finish).sig = s.sig := rfl
@[simp] theorem State.finish_ihdr : (s.finish).ihdr = s.ihdr := rfl
@[simp] theorem State.finish_idat : (s.finish).idat = s.idat := rfl
@[simp] theorem State.finish_iend : (s.finish).iend = s.iend := rfl
@[simp] theorem State.finish_decV : (s.finish).decV = s.decV := rfl
@[simp] theorem State.finish_treeV : (s.finish).treeV = s.treeV := rfl
@[simp] theorem State.finish_tableV : (s.finish).tableV = s.tableV := rfl
@[simp] theorem State.finish_degen : (s.finish).degen = s.degen := rfl
@[simp] theorem State.finish_hnsym : (s.finish).hnsym = s.hnsym := rfl
@[simp] theorem State.finish_hroot : (s.finish).hroot = s.hroot := rfl
@[simp] theorem State.finish_hnnode : (s.finish).hnnode = s.hnnode := rfl
@[simp] theorem State.finish_freq : (s.finish).freq = s.freq := rfl
@[simp] theorem State.finish_node : (s.finish).node = s.node := rfl
@[simp] theorem State.finish_code : (s.finish).code = s.code := rfl
@[simp] theorem State.finish_buf : (s.finish).buf = s.buf := rfl
@[simp] theorem State.finish_sym : (s.finish).sym = s.sym := rfl

@[simp] theorem State.raise_script (e : ErrCode) (g : Stage) (i : Word) : (s.raise e g i).script = s.script := rfl
@[simp] theorem State.raise_reads (e : ErrCode) (g : Stage) (i : Word) : (s.raise e g i).reads = s.reads := rfl
@[simp] theorem State.raise_resets (e : ErrCode) (g : Stage) (i : Word) : (s.raise e g i).resets = s.resets := rfl
@[simp] theorem State.raise_bufCap (e : ErrCode) (g : Stage) (i : Word) : (s.raise e g i).bufCap = s.bufCap := rfl
@[simp] theorem State.raise_symCap (e : ErrCode) (g : Stage) (i : Word) : (s.raise e g i).symCap = s.symCap := rfl
@[simp] theorem State.raise_status (e : ErrCode) (g : Stage) (i : Word) : (s.raise e g i).status = { err := e, stage := g, sticky := true } := rfl
@[simp] theorem State.raise_errinfo (e : ErrCode) (g : Stage) (i : Word) : (s.raise e g i).errinfo = i := rfl
@[simp] theorem State.raise_cfg (e : ErrCode) (g : Stage) (i : Word) : (s.raise e g i).cfg = s.cfg := rfl
@[simp] theorem State.raise_arg0 (e : ErrCode) (g : Stage) (i : Word) : (s.raise e g i).arg0 = s.arg0 := rfl
@[simp] theorem State.raise_arg1 (e : ErrCode) (g : Stage) (i : Word) : (s.raise e g i).arg1 = s.arg1 := rfl
@[simp] theorem State.raise_buflen (e : ErrCode) (g : Stage) (i : Word) : (s.raise e g i).buflen = s.buflen := rfl
@[simp] theorem State.raise_symlen (e : ErrCode) (g : Stage) (i : Word) : (s.raise e g i).symlen = s.symlen := rfl
@[simp] theorem State.raise_crcState (e : ErrCode) (g : Stage) (i : Word) : (s.raise e g i).crcState = s.crcState := rfl
@[simp] theorem State.raise_adlerA (e : ErrCode) (g : Stage) (i : Word) : (s.raise e g i).adlerA = s.adlerA := rfl
@[simp] theorem State.raise_adlerB (e : ErrCode) (g : Stage) (i : Word) : (s.raise e g i).adlerB = s.adlerB := rfl
@[simp] theorem State.raise_poff (e : ErrCode) (g : Stage) (i : Word) : (s.raise e g i).poff = s.poff := rfl
@[simp] theorem State.raise_pcons (e : ErrCode) (g : Stage) (i : Word) : (s.raise e g i).pcons = s.pcons := rfl
@[simp] theorem State.raise_sig (e : ErrCode) (g : Stage) (i : Word) : (s.raise e g i).sig = s.sig := rfl
@[simp] theorem State.raise_ihdr (e : ErrCode) (g : Stage) (i : Word) : (s.raise e g i).ihdr = s.ihdr := rfl
@[simp] theorem State.raise_idat (e : ErrCode) (g : Stage) (i : Word) : (s.raise e g i).idat = s.idat := rfl
@[simp] theorem State.raise_iend (e : ErrCode) (g : Stage) (i : Word) : (s.raise e g i).iend = s.iend := rfl
@[simp] theorem State.raise_decV (e : ErrCode) (g : Stage) (i : Word) : (s.raise e g i).decV = s.decV := rfl
@[simp] theorem State.raise_treeV (e : ErrCode) (g : Stage) (i : Word) : (s.raise e g i).treeV = s.treeV := rfl
@[simp] theorem State.raise_tableV (e : ErrCode) (g : Stage) (i : Word) : (s.raise e g i).tableV = s.tableV := rfl
@[simp] theorem State.raise_degen (e : ErrCode) (g : Stage) (i : Word) : (s.raise e g i).degen = s.degen := rfl
@[simp] theorem State.raise_hnsym (e : ErrCode) (g : Stage) (i : Word) : (s.raise e g i).hnsym = s.hnsym := rfl
@[simp] theorem State.raise_hroot (e : ErrCode) (g : Stage) (i : Word) : (s.raise e g i).hroot = s.hroot := rfl
@[simp] theorem State.raise_hnnode (e : ErrCode) (g : Stage) (i : Word) : (s.raise e g i).hnnode = s.hnnode := rfl
@[simp] theorem State.raise_freq (e : ErrCode) (g : Stage) (i : Word) : (s.raise e g i).freq = s.freq := rfl
@[simp] theorem State.raise_node (e : ErrCode) (g : Stage) (i : Word) : (s.raise e g i).node = s.node := rfl
@[simp] theorem State.raise_code (e : ErrCode) (g : Stage) (i : Word) : (s.raise e g i).code = s.code := rfl
@[simp] theorem State.raise_buf (e : ErrCode) (g : Stage) (i : Word) : (s.raise e g i).buf = s.buf := rfl
@[simp] theorem State.raise_sym (e : ErrCode) (g : Stage) (i : Word) : (s.raise e g i).sym = s.sym := rfl

@[simp] theorem State.clearRecords_script : (s.clearRecords).script = s.script := rfl
@[simp] theorem State.clearRecords_reads : (s.clearRecords).reads = s.reads := rfl
@[simp] theorem State.clearRecords_resets : (s.clearRecords).resets = s.resets := rfl
@[simp] theorem State.clearRecords_bufCap : (s.clearRecords).bufCap = s.bufCap := rfl
@[simp] theorem State.clearRecords_symCap : (s.clearRecords).symCap = s.symCap := rfl
@[simp] theorem State.clearRecords_status : (s.clearRecords).status = s.status := rfl
@[simp] theorem State.clearRecords_errinfo : (s.clearRecords).errinfo = s.errinfo := rfl
@[simp] theorem State.clearRecords_cfg : (s.clearRecords).cfg = s.cfg := rfl
@[simp] theorem State.clearRecords_arg0 : (s.clearRecords).arg0 = s.arg0 := rfl
@[simp] theorem State.clearRecords_arg1 : (s.clearRecords).arg1 = s.arg1 := rfl
@[simp] theorem State.clearRecords_buflen : (s.clearRecords).buflen = s.buflen := rfl
@[simp] theorem State.clearRecords_symlen : (s.clearRecords).symlen = s.symlen := rfl
@[simp] theorem State.clearRecords_crcState : (s.clearRecords).crcState = s.crcState := rfl
@[simp] theorem State.clearRecords_adlerA : (s.clearRecords).adlerA = s.adlerA := rfl
@[simp] theorem State.clearRecords_adlerB : (s.clearRecords).adlerB = s.adlerB := rfl
@[simp] theorem State.clearRecords_poff : (s.clearRecords).poff = s.poff := rfl
@[simp] theorem State.clearRecords_pcons : (s.clearRecords).pcons = s.pcons := rfl
@[simp] theorem State.clearRecords_sig : (s.clearRecords).sig = none := rfl
@[simp] theorem State.clearRecords_ihdr : (s.clearRecords).ihdr = none := rfl
@[simp] theorem State.clearRecords_idat : (s.clearRecords).idat = none := rfl
@[simp] theorem State.clearRecords_iend : (s.clearRecords).iend = none := rfl
@[simp] theorem State.clearRecords_decV : (s.clearRecords).decV = false := rfl
@[simp] theorem State.clearRecords_treeV : (s.clearRecords).treeV = s.treeV := rfl
@[simp] theorem State.clearRecords_tableV : (s.clearRecords).tableV = s.tableV := rfl
@[simp] theorem State.clearRecords_degen : (s.clearRecords).degen = s.degen := rfl
@[simp] theorem State.clearRecords_hnsym : (s.clearRecords).hnsym = s.hnsym := rfl
@[simp] theorem State.clearRecords_hroot : (s.clearRecords).hroot = s.hroot := rfl
@[simp] theorem State.clearRecords_hnnode : (s.clearRecords).hnnode = s.hnnode := rfl
@[simp] theorem State.clearRecords_freq : (s.clearRecords).freq = s.freq := rfl
@[simp] theorem State.clearRecords_node : (s.clearRecords).node = s.node := rfl
@[simp] theorem State.clearRecords_code : (s.clearRecords).code = s.code := rfl
@[simp] theorem State.clearRecords_buf : (s.clearRecords).buf = s.buf := rfl
@[simp] theorem State.clearRecords_sym : (s.clearRecords).sym = s.sym := rfl

@[simp] theorem State.clearHuffman_script : (s.clearHuffman).script = s.script := rfl
@[simp] theorem State.clearHuffman_reads : (s.clearHuffman).reads = s.reads := rfl
@[simp] theorem State.clearHuffman_resets : (s.clearHuffman).resets = s.resets := rfl
@[simp] theorem State.clearHuffman_bufCap : (s.clearHuffman).bufCap = s.bufCap := rfl
@[simp] theorem State.clearHuffman_symCap : (s.clearHuffman).symCap = s.symCap := rfl
@[simp] theorem State.clearHuffman_status : (s.clearHuffman).status = s.status := rfl
@[simp] theorem State.clearHuffman_errinfo : (s.clearHuffman).errinfo = s.errinfo := rfl
@[simp] theorem State.clearHuffman_cfg : (s.clearHuffman).cfg = s.cfg := rfl
@[simp] theorem State.clearHuffman_arg0 : (s.clearHuffman).arg0 = s.arg0 := rfl
@[simp] theorem State.clearHuffman_arg1 : (s.clearHuffman).arg1 = s.arg1 := rfl
@[simp] theorem State.clearHuffman_buflen : (s.clearHuffman).buflen = s.buflen := rfl
@[simp] theorem State.clearHuffman_symlen : (s.clearHuffman).symlen = s.symlen := rfl
@[simp] theorem State.clearHuffman_crcState : (s.clearHuffman).crcState = s.crcState := rfl
@[simp] theorem State.clearHuffman_adlerA : (s.clearHuffman).adlerA = s.adlerA := rfl
@[simp] theorem State.clearHuffman_adlerB : (s.clearHuffman).adlerB = s.adlerB := rfl
@[simp] theorem State.clearHuffman_poff : (s.clearHuffman).poff = s.poff := rfl
@[simp] theorem State.clearHuffman_pcons : (s.clearHuffman).pcons = s.pcons := rfl
@[simp] theorem State.clearHuffman_sig : (s.clearHuffman).sig = s.sig := rfl
@[simp] theorem State.clearHuffman_ihdr : (s.clearHuffman).ihdr = s.ihdr := rfl
@[simp] theorem State.clearHuffman_idat : (s.clearHuffman).idat = s.idat := rfl
@[simp] theorem State.clearHuffman_iend : (s.clearHuffman).iend = s.iend := rfl
@[simp] theorem State.clearHuffman_decV : (s.clearHuffman).decV = s.decV := rfl
@[simp] theorem State.clearHuffman_treeV : (s.clearHuffman).treeV = false := rfl
@[simp] theorem State.clearHuffman_tableV : (s.clearHuffman).tableV = false := rfl
@[simp] theorem State.clearHuffman_degen : (s.clearHuffman).degen = false := rfl
@[simp] theorem State.clearHuffman_hnsym : (s.clearHuffman).hnsym = 0 := rfl
@[simp] theorem State.clearHuffman_hroot : (s.clearHuffman).hroot = 0 := rfl
@[simp] theorem State.clearHuffman_hnnode : (s.clearHuffman).hnnode = 0 := rfl
@[simp] theorem State.clearHuffman_freq : (s.clearHuffman).freq = [] := rfl
@[simp] theorem State.clearHuffman_node : (s.clearHuffman).node = [] := rfl
@[simp] theorem State.clearHuffman_code : (s.clearHuffman).code = [] := rfl
@[simp] theorem State.clearHuffman_buf : (s.clearHuffman).buf = s.buf := rfl
@[simp] theorem State.clearHuffman_sym : (s.clearHuffman).sym = s.sym := rfl

@[simp] theorem State.logRead_script (v : Word) : (s.logRead v).script = s.script := rfl
@[simp] theorem State.logRead_reads (v : Word) : (s.logRead v).reads = s.reads ++ [v] := rfl
@[simp] theorem State.logRead_resets (v : Word) : (s.logRead v).resets = s.resets := rfl
@[simp] theorem State.logRead_bufCap (v : Word) : (s.logRead v).bufCap = s.bufCap := rfl
@[simp] theorem State.logRead_symCap (v : Word) : (s.logRead v).symCap = s.symCap := rfl
@[simp] theorem State.logRead_status (v : Word) : (s.logRead v).status = s.status := rfl
@[simp] theorem State.logRead_errinfo (v : Word) : (s.logRead v).errinfo = s.errinfo := rfl
@[simp] theorem State.logRead_cfg (v : Word) : (s.logRead v).cfg = s.cfg := rfl
@[simp] theorem State.logRead_arg0 (v : Word) : (s.logRead v).arg0 = s.arg0 := rfl
@[simp] theorem State.logRead_arg1 (v : Word) : (s.logRead v).arg1 = s.arg1 := rfl
@[simp] theorem State.logRead_buflen (v : Word) : (s.logRead v).buflen = s.buflen := rfl
@[simp] theorem State.logRead_symlen (v : Word) : (s.logRead v).symlen = s.symlen := rfl
@[simp] theorem State.logRead_crcState (v : Word) : (s.logRead v).crcState = s.crcState := rfl
@[simp] theorem State.logRead_adlerA (v : Word) : (s.logRead v).adlerA = s.adlerA := rfl
@[simp] theorem State.logRead_adlerB (v : Word) : (s.logRead v).adlerB = s.adlerB := rfl
@[simp] theorem State.logRead_poff (v : Word) : (s.logRead v).poff = s.poff := rfl
@[simp] theorem State.logRead_pcons (v : Word) : (s.logRead v).pcons = s.pcons := rfl
@[simp] theorem State.logRead_sig (v : Word) : (s.logRead v).sig = s.sig := rfl
@[simp] theorem State.logRead_ihdr (v : Word) : (s.logRead v).ihdr = s.ihdr := rfl
@[simp] theorem State.logRead_idat (v : Word) : (s.logRead v).idat = s.idat := rfl
@[simp] theorem State.logRead_iend (v : Word) : (s.logRead v).iend = s.iend := rfl
@[simp] theorem State.logRead_decV (v : Word) : (s.logRead v).decV = s.decV := rfl
@[simp] theorem State.logRead_treeV (v : Word) : (s.logRead v).treeV = s.treeV := rfl
@[simp] theorem State.logRead_tableV (v : Word) : (s.logRead v).tableV = s.tableV := rfl
@[simp] theorem State.logRead_degen (v : Word) : (s.logRead v).degen = s.degen := rfl
@[simp] theorem State.logRead_hnsym (v : Word) : (s.logRead v).hnsym = s.hnsym := rfl
@[simp] theorem State.logRead_hroot (v : Word) : (s.logRead v).hroot = s.hroot := rfl
@[simp] theorem State.logRead_hnnode (v : Word) : (s.logRead v).hnnode = s.hnnode := rfl
@[simp] theorem State.logRead_freq (v : Word) : (s.logRead v).freq = s.freq := rfl
@[simp] theorem State.logRead_node (v : Word) : (s.logRead v).node = s.node := rfl
@[simp] theorem State.logRead_code (v : Word) : (s.logRead v).code = s.code := rfl
@[simp] theorem State.logRead_buf (v : Word) : (s.logRead v).buf = s.buf := rfl
@[simp] theorem State.logRead_sym (v : Word) : (s.logRead v).sym = s.sym := rfl

@[simp] theorem State.putBuf_script (i : Nat) (b : Byte) : (s.putBuf i b).script = s.script := rfl
@[simp] theorem State.putBuf_reads (i : Nat) (b : Byte) : (s.putBuf i b).reads = s.reads := rfl
@[simp] theorem State.putBuf_resets (i : Nat) (b : Byte) : (s.putBuf i b).resets = s.resets := rfl
@[simp] theorem State.putBuf_bufCap (i : Nat) (b : Byte) : (s.putBuf i b).bufCap = s.bufCap := rfl
@[simp] theorem State.putBuf_symCap (i : Nat) (b : Byte) : (s.putBuf i b).symCap = s.symCap := rfl
@[simp] theorem State.putBuf_status (i : Nat) (b : Byte) : (s.putBuf i b).status = s.status := rfl
@[simp] theorem State.putBuf_errinfo (i : Nat) (b : Byte) : (s.putBuf i b).errinfo = s.errinfo := rfl
@[simp] theorem State.putBuf_cfg (i : Nat) (b : Byte) : (s.putBuf i b).cfg = s.cfg := rfl
@[simp] theorem State.putBuf_arg0 (i : Nat) (b : Byte) : (s.putBuf i b).arg0 = s.arg0 := rfl
@[simp] theorem State.putBuf_arg1 (i : Nat) (b : Byte) : (s.putBuf i b).arg1 = s.arg1 := rfl
@[simp] theorem State.putBuf_buflen (i : Nat) (b : Byte) : (s.putBuf i b).buflen = s.buflen := rfl
@[simp] theorem State.putBuf_symlen (i : Nat) (b : Byte) : (s.putBuf i b).symlen = s.symlen := rfl
@[simp] theorem State.putBuf_crcState (i : Nat) (b : Byte) : (s.putBuf i b).crcState = s.crcState := rfl
@[simp] theorem State.putBuf_adlerA (i : Nat) (b : Byte) : (s.putBuf i b).adlerA = s.adlerA := rfl
@[simp] theorem State.putBuf_adlerB (i : Nat) (b : Byte) : (s.putBuf i b).adlerB = s.adlerB := rfl
@[simp] theorem State.putBuf_poff (i : Nat) (b : Byte) : (s.putBuf i b).poff = s.poff := rfl
@[simp] theorem State.putBuf_pcons (i : Nat) (b : Byte) : (s.putBuf i b).pcons = s.pcons := rfl
@[simp] theorem State.putBuf_sig (i : Nat) (b : Byte) : (s.putBuf i b).sig = none := rfl
@[simp] theorem State.putBuf_ihdr (i : Nat) (b : Byte) : (s.putBuf i b).ihdr = none := rfl
@[simp] theorem State.putBuf_idat (i : Nat) (b : Byte) : (s.putBuf i b).idat = none := rfl
@[simp] theorem State.putBuf_iend (i : Nat) (b : Byte) : (s.putBuf i b).iend = none := rfl
@[simp] theorem State.putBuf_decV (i : Nat) (b : Byte) : (s.putBuf i b).decV = false := rfl
@[simp] theorem State.putBuf_treeV (i : Nat) (b : Byte) : (s.putBuf i b).treeV = s.treeV := rfl
@[simp] theorem State.putBuf_tableV (i : Nat) (b : Byte) : (s.putBuf i b).tableV = s.tableV := rfl
@[simp] theorem State.putBuf_degen (i : Nat) (b : Byte) : (s.putBuf i b).degen = s.degen := rfl
@[simp] theorem State.putBuf_hnsym (i : Nat) (b : Byte) : (s.putBuf i b).hnsym = s.hnsym := rfl
@[simp] theorem State.putBuf_hroot (i : Nat) (b : Byte) : (s.putBuf i b).hroot = s.hroot := rfl
@[simp] theorem State.putBuf_hnnode (i : Nat) (b : Byte) : (s.putBuf i b).hnnode = s.hnnode := rfl
@[simp] theorem State.putBuf_freq (i : Nat) (b : Byte) : (s.putBuf i b).freq = s.freq := rfl
@[simp] theorem State.putBuf_node (i : Nat) (b : Byte) : (s.putBuf i b).node = s.node := rfl
@[simp] theorem State.putBuf_code (i : Nat) (b : Byte) : (s.putBuf i b).code = s.code := rfl
@[simp] theorem State.putBuf_buf (i : Nat) (b : Byte) : (s.putBuf i b).buf = Table.put s.buf i b := rfl
@[simp] theorem State.putBuf_sym (i : Nat) (b : Byte) : (s.putBuf i b).sym = s.sym := rfl

@[simp] theorem State.putSym_script (i : Nat) (b : Byte) : (s.putSym i b).script = s.script := rfl
@[simp] theorem State.putSym_reads (i : Nat) (b : Byte) : (s.putSym i b).reads = s.reads := rfl
@[simp] theorem State.putSym_resets (i : Nat) (b : Byte) : (s.putSym i b).resets = s.resets := rfl
@[simp] theorem State.putSym_bufCap (i : Nat) (b : Byte) : (s.putSym i b).bufCap = s.bufCap := rfl
@[simp] theorem State.putSym_symCap (i : Nat) (b : Byte) : (s.putSym i b).symCap = s.symCap := rfl
@[simp] theorem State.putSym_status (i : Nat) (b : Byte) : (s.putSym i b).status = s.status := rfl
@[simp] theorem State.putSym_errinfo (i : Nat) (b : Byte) : (s.putSym i b).errinfo = s.errinfo := rfl
@[simp] theorem State.putSym_cfg (i : Nat) (b : Byte) : (s.putSym i b).cfg = s.cfg := rfl
@[simp] theorem State.putSym_arg0 (i : Nat) (b : Byte) : (s.putSym i b).arg0 = s.arg0 := rfl
@[simp] theorem State.putSym_arg1 (i : Nat) (b : Byte) : (s.putSym i b).arg1 = s.arg1 := rfl
@[simp] theorem State.putSym_buflen (i : Nat) (b : Byte) : (s.putSym i b).buflen = s.buflen := rfl
@[simp] theorem State.putSym_symlen (i : Nat) (b : Byte) : (s.putSym i b).symlen = s.symlen := rfl
@[simp] theorem State.putSym_crcState (i : Nat) (b : Byte) : (s.putSym i b).crcState = s.crcState := rfl
@[simp] theorem State.putSym_adlerA (i : Nat) (b : Byte) : (s.putSym i b).adlerA = s.adlerA := rfl
@[simp] theorem State.putSym_adlerB (i : Nat) (b : Byte) : (s.putSym i b).adlerB = s.adlerB := rfl
@[simp] theorem State.putSym_poff (i : Nat) (b : Byte) : (s.putSym i b).poff = s.poff := rfl
@[simp] theorem State.putSym_pcons (i : Nat) (b : Byte) : (s.putSym i b).pcons = s.pcons := rfl
@[simp] theorem State.putSym_sig (i : Nat) (b : Byte) : (s.putSym i b).sig = s.sig := rfl
@[simp] theorem State.putSym_ihdr (i : Nat) (b : Byte) : (s.putSym i b).ihdr = s.ihdr := rfl
@[simp] theorem State.putSym_idat (i : Nat) (b : Byte) : (s.putSym i b).idat = s.idat := rfl
@[simp] theorem State.putSym_iend (i : Nat) (b : Byte) : (s.putSym i b).iend = s.iend := rfl
@[simp] theorem State.putSym_decV (i : Nat) (b : Byte) : (s.putSym i b).decV = s.decV := rfl
@[simp] theorem State.putSym_treeV (i : Nat) (b : Byte) : (s.putSym i b).treeV = s.treeV := rfl
@[simp] theorem State.putSym_tableV (i : Nat) (b : Byte) : (s.putSym i b).tableV = s.tableV := rfl
@[simp] theorem State.putSym_degen (i : Nat) (b : Byte) : (s.putSym i b).degen = s.degen := rfl
@[simp] theorem State.putSym_hnsym (i : Nat) (b : Byte) : (s.putSym i b).hnsym = s.hnsym := rfl
@[simp] theorem State.putSym_hroot (i : Nat) (b : Byte) : (s.putSym i b).hroot = s.hroot := rfl
@[simp] theorem State.putSym_hnnode (i : Nat) (b : Byte) : (s.putSym i b).hnnode = s.hnnode := rfl
@[simp] theorem State.putSym_freq (i : Nat) (b : Byte) : (s.putSym i b).freq = s.freq := rfl
@[simp] theorem State.putSym_node (i : Nat) (b : Byte) : (s.putSym i b).node = s.node := rfl
@[simp] theorem State.putSym_code (i : Nat) (b : Byte) : (s.putSym i b).code = s.code := rfl
@[simp] theorem State.putSym_buf (i : Nat) (b : Byte) : (s.putSym i b).buf = s.buf := rfl
@[simp] theorem State.putSym_sym (i : Nat) (b : Byte) : (s.putSym i b).sym = Table.put s.sym i b := rfl

@[simp] theorem State.setAdler_script (p : Nat × Nat) : (s.setAdler p).script = s.script := rfl
@[simp] theorem State.setAdler_reads (p : Nat × Nat) : (s.setAdler p).reads = s.reads := rfl
@[simp] theorem State.setAdler_resets (p : Nat × Nat) : (s.setAdler p).resets = s.resets := rfl
@[simp] theorem State.setAdler_bufCap (p : Nat × Nat) : (s.setAdler p).bufCap = s.bufCap := rfl
@[simp] theorem State.setAdler_symCap (p : Nat × Nat) : (s.setAdler p).symCap = s.symCap := rfl
@[simp] theorem State.setAdler_status (p : Nat × Nat) : (s.setAdler p).status = s.status := rfl
@[simp] theorem State.setAdler_errinfo (p : Nat × Nat) : (s.setAdler p).errinfo = s.errinfo := rfl
@[simp] theorem State.setAdler_cfg (p : Nat × Nat) : (s.setAdler p).cfg = s.cfg := rfl
@[simp] theorem State.setAdler_arg0 (p : Nat × Nat) : (s.setAdler p).arg0 = s.arg0 := rfl
@[simp] theorem State.setAdler_arg1 (p : Nat × Nat) : (s.setAdler p).arg1 = s.arg1 := rfl
@[simp] theorem State.setAdler_buflen (p : Nat × Nat) : (s.setAdler p).buflen = s.buflen := rfl
@[simp] theorem State.setAdler_symlen (p : Nat × Nat) : (s.setAdler p).symlen = s.symlen := rfl
@[simp] theorem State.setAdler_crcState (p : Nat × Nat) : (s.setAdler p).crcState = s.crcState := rfl
@[simp] theorem State.setAdler_adlerA (p : Nat × Nat) : (s.setAdler p).adlerA = low32 p.1 := rfl
@[simp] theorem State.setAdler_adlerB (p : Nat × Nat) : (s.setAdler p).adlerB = low32 p.2 := rfl
@[simp] theorem State.setAdler_poff (p : Nat × Nat) : (s.setAdler p).poff = s.poff := rfl
@[simp] theorem State.setAdler_pcons (p : Nat × Nat) : (s.setAdler p).pcons = s.pcons := rfl
@[simp] theorem State.setAdler_sig (p : Nat × Nat) : (s.setAdler p).sig = s.sig := rfl
@[simp] theorem State.setAdler_ihdr (p : Nat × Nat) : (s.setAdler p).ihdr = s.ihdr := rfl
@[simp] theorem State.setAdler_idat (p : Nat × Nat) : (s.setAdler p).idat = s.idat := rfl
@[simp] theorem State.setAdler_iend (p : Nat × Nat) : (s.setAdler p).iend = s.iend := rfl
@[simp] theorem State.setAdler_decV (p : Nat × Nat) : (s.setAdler p).decV = s.decV := rfl
@[simp] theorem State.setAdler_treeV (p : Nat × Nat) : (s.setAdler p).treeV = s.treeV := rfl
@[simp] theorem State.setAdler_tableV (p : Nat × Nat) : (s.setAdler p).tableV = s.tableV := rfl
@[simp] theorem State.setAdler_degen (p : Nat × Nat) : (s.setAdler p).degen = s.degen := rfl
@[simp] theorem State.setAdler_hnsym (p : Nat × Nat) : (s.setAdler p).hnsym = s.hnsym := rfl
@[simp] theorem State.setAdler_hroot (p : Nat × Nat) : (s.setAdler p).hroot = s.hroot := rfl
@[simp] theorem State.setAdler_hnnode (p : Nat × Nat) : (s.setAdler p).hnnode = s.hnnode := rfl
@[simp] theorem State.setAdler_freq (p : Nat × Nat) : (s.setAdler p).freq = s.freq := rfl
@[simp] theorem State.setAdler_node (p : Nat × Nat) : (s.setAdler p).node = s.node := rfl
@[simp] theorem State.setAdler_code (p : Nat × Nat) : (s.setAdler p).code = s.code := rfl
@[simp] theorem State.setAdler_buf (p : Nat × Nat) : (s.setAdler p).buf = s.buf := rfl
@[simp] theorem State.setAdler_sym (p : Nat × Nat) : (s.setAdler p).sym = s.sym := rfl

@[simp] theorem State.applyReset_script : (s.applyReset).script = s.script := rfl
@[simp] theorem State.applyReset_reads : (s.applyReset).reads = s.reads := rfl
@[simp] theorem State.applyReset_resets : (s.applyReset).resets = s.resets + 1 := rfl
@[simp] theorem State.applyReset_bufCap : (s.applyReset).bufCap = s.bufCap := rfl
@[simp] theorem State.applyReset_symCap : (s.applyReset).symCap = s.symCap := rfl
@[simp] theorem State.applyReset_status : (s.applyReset).status = { err := .ok, stage := .none, sticky := false } := rfl
@[simp] theorem State.applyReset_errinfo : (s.applyReset).errinfo = 0 := rfl
@[simp] theorem State.applyReset_cfg : (s.applyReset).cfg = 0 := rfl
@[simp] theorem State.applyReset_arg0 : (s.applyReset).arg0 = 0 := rfl
@[simp] theorem State.applyReset_arg1 : (s.applyReset).arg1 = 0 := rfl
@[simp] theorem State.applyReset_buflen : (s.applyReset).buflen = 0 := rfl
@[simp] theorem State.applyReset_symlen : (s.applyReset).symlen = 0 := rfl
@[simp] theorem State.applyReset_crcState : (s.applyReset).crcState = 0xFFFFFFFF := rfl
@[simp] theorem State.applyReset_adlerA : (s.applyReset).adlerA = 1 := rfl
@[simp] theorem State.applyReset_adlerB : (s.applyReset).adlerB = 0 := rfl
@[simp] theorem State.applyReset_poff : (s.applyReset).poff = 0 := rfl
@[simp] theorem State.applyReset_pcons : (s.applyReset).pcons = 0 := rfl
@[simp] theorem State.applyReset_sig : (s.applyReset).sig = none := rfl
@[simp] theorem State.applyReset_ihdr : (s.applyReset).ihdr = none := rfl
@[simp] theorem State.applyReset_idat : (s.applyReset).idat = none := rfl
@[simp] theorem State.applyReset_iend : (s.applyReset).iend = none := rfl
@[simp] theorem State.applyReset_decV : (s.applyReset).decV = false := rfl
@[simp] theorem State.applyReset_treeV : (s.applyReset).treeV = false := rfl
@[simp] theorem State.applyReset_tableV : (s.applyReset).tableV = false := rfl
@[simp] theorem State.applyReset_degen : (s.applyReset).degen = false := rfl
@[simp] theorem State.applyReset_hnsym : (s.applyReset).hnsym = 0 := rfl
@[simp] theorem State.applyReset_hroot : (s.applyReset).hroot = 0 := rfl
@[simp] theorem State.applyReset_hnnode : (s.applyReset).hnnode = 0 := rfl
@[simp] theorem State.applyReset_freq : (s.applyReset).freq = [] := rfl
@[simp] theorem State.applyReset_node : (s.applyReset).node = [] := rfl
@[simp] theorem State.applyReset_code : (s.applyReset).code = [] := rfl
@[simp] theorem State.applyReset_buf : (s.applyReset).buf = [] := rfl
@[simp] theorem State.applyReset_sym : (s.applyReset).sym = [] := rfl

@[simp] theorem State.resetOf_script (b c : Nat) : (State.resetOf b c).script = [] := rfl
@[simp] theorem State.resetOf_reads (b c : Nat) : (State.resetOf b c).reads = [] := rfl
@[simp] theorem State.resetOf_resets (b c : Nat) : (State.resetOf b c).resets = 0 := rfl
@[simp] theorem State.resetOf_bufCap (b c : Nat) : (State.resetOf b c).bufCap = b := rfl
@[simp] theorem State.resetOf_symCap (b c : Nat) : (State.resetOf b c).symCap = c := rfl
@[simp] theorem State.resetOf_status (b c : Nat) : (State.resetOf b c).status = { err := .ok, stage := .none, sticky := false } := rfl
@[simp] theorem State.resetOf_errinfo (b c : Nat) : (State.resetOf b c).errinfo = 0 := rfl
@[simp] theorem State.resetOf_cfg (b c : Nat) : (State.resetOf b c).cfg = 0 := rfl
@[simp] theorem State.resetOf_arg0 (b c : Nat) : (State.resetOf b c).arg0 = 0 := rfl
@[simp] theorem State.resetOf_arg1 (b c : Nat) : (State.resetOf b c).arg1 = 0 := rfl
@[simp] theorem State.resetOf_buflen (b c : Nat) : (State.resetOf b c).buflen = 0 := rfl
@[simp] theorem State.resetOf_symlen (b c : Nat) : (State.resetOf b c).symlen = 0 := rfl
@[simp] theorem State.resetOf_crcState (b c : Nat) : (State.resetOf b c).crcState = 0xFFFFFFFF := rfl
@[simp] theorem State.resetOf_adlerA (b c : Nat) : (State.resetOf b c).adlerA = 1 := rfl
@[simp] theorem State.resetOf_adlerB (b c : Nat) : (State.resetOf b c).adlerB = 0 := rfl
@[simp] theorem State.resetOf_poff (b c : Nat) : (State.resetOf b c).poff = 0 := rfl
@[simp] theorem State.resetOf_pcons (b c : Nat) : (State.resetOf b c).pcons = 0 := rfl
@[simp] theorem State.resetOf_sig (b c : Nat) : (State.resetOf b c).sig = none := rfl
@[simp] theorem State.resetOf_ihdr (b c : Nat) : (State.resetOf b c).ihdr = none := rfl
@[simp] theorem State.resetOf_idat (b c : Nat) : (State.resetOf b c).idat = none := rfl
@[simp] theorem State.resetOf_iend (b c : Nat) : (State.resetOf b c).iend = none := rfl
@[simp] theorem State.resetOf_decV (b c : Nat) : (State.resetOf b c).decV = false := rfl
@[simp] theorem State.resetOf_treeV (b c : Nat) : (State.resetOf b c).treeV = false := rfl
@[simp] theorem State.resetOf_tableV (b c : Nat) : (State.resetOf b c).tableV = false := rfl
@[simp] theorem State.resetOf_degen (b c : Nat) : (State.resetOf b c).degen = false := rfl
@[simp] theorem State.resetOf_hnsym (b c : Nat) : (State.resetOf b c).hnsym = 0 := rfl
@[simp] theorem State.resetOf_hroot (b c : Nat) : (State.resetOf b c).hroot = 0 := rfl
@[simp] theorem State.resetOf_hnnode (b c : Nat) : (State.resetOf b c).hnnode = 0 := rfl
@[simp] theorem State.resetOf_freq (b c : Nat) : (State.resetOf b c).freq = [] := rfl
@[simp] theorem State.resetOf_node (b c : Nat) : (State.resetOf b c).node = [] := rfl
@[simp] theorem State.resetOf_code (b c : Nat) : (State.resetOf b c).code = [] := rfl
@[simp] theorem State.resetOf_buf (b c : Nat) : (State.resetOf b c).buf = [] := rfl
@[simp] theorem State.resetOf_sym (b c : Nat) : (State.resetOf b c).sym = [] := rfl

@[simp] theorem State.finish_bufByte (a : Nat) : (s.finish).bufByte a = s.bufByte a := rfl
@[simp] theorem State.finish_symByte (a : Nat) : (s.finish).symByte a = s.symByte a := rfl
@[simp] theorem State.raise_bufByte (e : ErrCode) (g : Stage) (i : Word) (a : Nat) : (s.raise e g i).bufByte a = s.bufByte a := rfl
@[simp] theorem State.raise_symByte (e : ErrCode) (g : Stage) (i : Word) (a : Nat) : (s.raise e g i).symByte a = s.symByte a := rfl
@[simp] theorem State.clearRecords_bufByte (a : Nat) : (s.clearRecords).bufByte a = s.bufByte a := rfl
@[simp] theorem State.clearRecords_symByte (a : Nat) : (s.clearRecords).symByte a = s.symByte a := rfl
@[simp] theorem State.clearHuffman_bufByte (a : Nat) : (s.clearHuffman).bufByte a = s.bufByte a := rfl
@[simp] theorem State.clearHuffman_symByte (a : Nat) : (s.clearHuffman).symByte a = s.symByte a := rfl
@[simp] theorem State.logRead_bufByte (v : Word) (a : Nat) : (s.logRead v).bufByte a = s.bufByte a := rfl
@[simp] theorem State.logRead_symByte (v : Word) (a : Nat) : (s.logRead v).symByte a = s.symByte a := rfl
@[simp] theorem State.putBuf_symByte (i : Nat) (b : Byte) (a : Nat) : (s.putBuf i b).symByte a = s.symByte a := rfl
@[simp] theorem State.putSym_bufByte (i : Nat) (b : Byte) (a : Nat) : (s.putSym i b).bufByte a = s.bufByte a := rfl
@[simp] theorem State.setAdler_bufByte (p : Nat × Nat) (a : Nat) : (s.setAdler p).bufByte a = s.bufByte a := rfl
@[simp] theorem State.setAdler_symByte (p : Nat × Nat) (a : Nat) : (s.setAdler p).symByte a = s.symByte a := rfl

end Sys2Proof.Machine
end

