-- ==== Sys2Proof/Laws/Memory.lean ====
section
/-! SUPPORT. The laws of the sparse tables and of the two memories: read after write, the canonical form kept by every
operation, and what a range of bytes is. -/

namespace Sys2Proof

variable {α : Type}

@[simp] theorem Table.find_put_same (t : Table α) (k : Nat) (v : α) : Table.find (Table.put t k v) k = some v := by
  induction t with
  | nil => simp [Table.put, Table.find]
  | cons p t ih =>
    obtain ⟨i, w⟩ := p
    by_cases h1 : k < i
    · simp [Table.put, Table.find, h1]
    · by_cases h2 : k = i
      · simp [Table.put, Table.find, h2]
      · have h3 : i ≠ k := fun h => h2 h.symm
        simp [Table.put, Table.find, h1, h2, h3, ih]

theorem Table.find_put_other (t : Table α) {k j : Nat} (v : α) (h : j ≠ k) :
    Table.find (Table.put t k v) j = Table.find t j := by
  have h' : k ≠ j := fun e => h e.symm
  induction t with
  | nil => simp [Table.put, Table.find, h']
  | cons p t ih =>
    obtain ⟨i, w⟩ := p
    by_cases h1 : k < i
    · simp [Table.put, Table.find, h1, h']
    · by_cases h2 : k = i
      · subst h2; simp [Table.put, Table.find, h']
      · simp [Table.put, Table.find, h1, h2, ih]

/-- An entry of a table after a store is the one stored or one that was there. -/
theorem Table.mem_put {t : Table α} {k : Nat} {v : α} {c : Nat × α} (h : c ∈ Table.put t k v) :
    c = (k, v) ∨ c ∈ t := by
  induction t with
  | nil => simpa [Table.put] using h
  | cons p t ih =>
    obtain ⟨i, w⟩ := p
    by_cases h1 : k < i
    · simpa [Table.put, h1] using h
    · by_cases h2 : k = i
      · simp only [Table.put, h2, lt_irrefl, if_false, if_true, List.mem_cons] at h ⊢
        exact h.imp_right .inr
      · simp only [Table.put, h1, h2, if_false, List.mem_cons] at h ⊢
        rcases h with h | h
        · exact .inr (.inl h)
        · exact (ih h).imp_right .inr

theorem Table.risesFrom_put {t : Table α} {j k : Nat} {v : α} (h : Table.risesFrom j t = true) (hk : j < k) :
    Table.risesFrom j (Table.put t k v) = true := by
  induction t generalizing j with
  | nil => simp [Table.put, Table.risesFrom, hk]
  | cons p t ih =>
    obtain ⟨i, w⟩ := p
    simp only [Table.risesFrom, Bool.and_eq_true, decide_eq_true_eq] at h
    by_cases h1 : k < i
    · simp [Table.put, Table.risesFrom, h1, hk, h.2]
    · by_cases h2 : k = i
      · subst h2; simp [Table.put, Table.risesFrom, hk, h.2]
      · have h3 : i < k := by omega
        simp [Table.put, Table.risesFrom, h1, h2, h.1, ih h.2 h3]

/-- Every store keeps the canonical form. -/
theorem Table.wf_put {t : Table α} (k : Nat) (v : α) (h : Table.wf t = true) : Table.wf (Table.put t k v) = true := by
  cases t with
  | nil => simp [Table.put, Table.wf, Table.risesFrom]
  | cons p t =>
    obtain ⟨i, w⟩ := p
    simp only [Table.wf] at h
    by_cases h1 : k < i
    · simp [Table.put, Table.wf, Table.risesFrom, h1, h]
    · by_cases h2 : k = i
      · subst h2; simpa [Table.put, Table.wf] using h
      · have h3 : i < k := by omega
        simpa [Table.put, Table.wf, h1, h2] using Table.risesFrom_put h h3

/-- In a table whose indices are above `k`, no entry has an index at or below it. -/
theorem Table.risesFrom_lt {t : Table α} {k : Nat} (h : Table.risesFrom k t = true) {c : Nat × α} (hc : c ∈ t) :
    k < c.1 := by
  induction t generalizing k with
  | nil => simp at hc
  | cons p t ih =>
    obtain ⟨i, w⟩ := p
    simp only [Table.risesFrom, Bool.and_eq_true, decide_eq_true_eq] at h
    rcases List.mem_cons.1 hc with rfl | hc
    · exact h.1
    · exact lt_trans h.1 (ih h.2 hc)

theorem Table.find_eq_none {t : Table α} {k : Nat} (h : ∀ c ∈ t, c.1 ≠ k) : Table.find t k = none := by
  induction t with
  | nil => rfl
  | cons p t ih =>
    obtain ⟨i, w⟩ := p
    simp only [Table.find, h (i, w) (by simp), if_false]
    exact ih fun c hc => h c (by simp [hc])

theorem Table.mem_of_find {t : Table α} {k : Nat} {v : α} (h : Table.find t k = some v) : (k, v) ∈ t := by
  induction t with
  | nil => simp [Table.find] at h
  | cons p t ih =>
    obtain ⟨i, w⟩ := p
    by_cases e : i = k
    · simp [Table.find, e] at h; simp [e, h]
    · simp [Table.find, e] at h; simp [ih h]

/-- In a table in canonical form, an index holds what is listed for it. -/
theorem Table.find_of_mem {t : Table α} (hw : Table.wf t = true) {k : Nat} {v : α} (h : (k, v) ∈ t) :
    Table.find t k = some v := by
  have key : ∀ (t : Table α), (∀ i w u, t = (i, w) :: u → Table.risesFrom i u = true) → (k, v) ∈ t →
      Table.find t k = some v := by
    intro t
    induction t with
    | nil => intro _ h; simp at h
    | cons p t ih =>
      obtain ⟨i, w⟩ := p
      intro hr hm
      have h1 := hr i w t rfl
      rcases List.mem_cons.1 hm with e | hm
      · cases e; simp [Table.find]
      · have : i < k := Table.risesFrom_lt h1 hm
        simp only [Table.find, show i ≠ k by omega, if_false]
        refine ih ?_ hm
        rintro i' w' u rfl
        simp only [Table.risesFrom, Bool.and_eq_true] at h1
        exact h1.2
  refine key t ?_ h
  rintro i w u rfl
  exact hw

namespace Machine

variable (s : State)

@[simp] theorem State.putBuf_bufByte_same (i : Nat) (b : Byte) : (s.putBuf i b).bufByte i = b := by
  simp [State.bufByte]

theorem State.putBuf_bufByte_other {i a : Nat} (b : Byte) (h : a ≠ i) : (s.putBuf i b).bufByte a = s.bufByte a := by
  simp [State.bufByte, Table.find_put_other _ _ h]

@[simp] theorem State.putSym_symByte_same (i : Nat) (b : Byte) : (s.putSym i b).symByte i = b := by
  simp [State.symByte]

theorem State.putSym_symByte_other {i a : Nat} (b : Byte) (h : a ≠ i) : (s.putSym i b).symByte a = s.symByte a := by
  simp [State.symByte, Table.find_put_other _ _ h]

@[simp] theorem State.bufRange_length (i n : Nat) : (s.bufRange i n).length = n := by
  induction n generalizing i with
  | zero => rfl
  | succ n ih => simp [State.bufRange, ih]

@[simp] theorem State.symRange_length (i n : Nat) : (s.symRange i n).length = n := by
  induction n generalizing i with
  | zero => rfl
  | succ n ih => simp [State.symRange, ih]

theorem State.bufRange_get {i n k : Nat} (h : k < n) : (s.bufRange i n)[k]? = some (s.bufByte (i + k)) := by
  induction n generalizing i k with
  | zero => omega
  | succ n ih =>
    cases k with
    | zero => simp [State.bufRange]
    | succ k => simp [State.bufRange, ih (show k < n by omega), Nat.add_assoc, Nat.add_comm 1 k]

/-- A range read in two pieces. -/
theorem State.bufRange_append (i m n : Nat) : s.bufRange i (m + n) = s.bufRange i m ++ s.bufRange (i + m) n := by
  induction m generalizing i with
  | zero => simp [State.bufRange]
  | succ m ih => simp [State.bufRange, Nat.succ_add, ih, Nat.add_assoc]

/-- A range depends on its own bytes only. -/
theorem State.bufRange_congr {s t : State} {i n : Nat} (h : ∀ a, i ≤ a → a < i + n → t.bufByte a = s.bufByte a) :
    t.bufRange i n = s.bufRange i n := by
  induction n generalizing i with
  | zero => rfl
  | succ n ih =>
    simp only [State.bufRange]
    rw [h i (by omega) (by omega), ih fun a h1 h2 => h a (by omega) (by omega)]

theorem State.symRange_congr {s t : State} {i n : Nat} (h : ∀ a, i ≤ a → a < i + n → t.symByte a = s.symByte a) :
    t.symRange i n = s.symRange i n := by
  induction n generalizing i with
  | zero => rfl
  | succ n ih =>
    simp only [State.symRange]
    rw [h i (by omega) (by omega), ih fun a h1 h2 => h a (by omega) (by omega)]

theorem State.be32_congr {s t : State} {a : Nat} (h : ∀ i, a ≤ i → i < a + 4 → t.bufByte i = s.bufByte i) :
    t.be32 a = s.be32 a := by
  simp only [State.be32]
  rw [h a (by omega) (by omega), h (a + 1) (by omega) (by omega), h (a + 2) (by omega) (by omega),
    h (a + 3) (by omega) (by omega)]

theorem State.chunkCrc_congr {s t : State} {o n : Nat}
    (h : ∀ i, o + 4 ≤ i → i < o + 8 + n → t.bufByte i = s.bufByte i) : t.chunkCrc o n = s.chunkCrc o n := by
  simp only [State.chunkCrc]
  rw [State.bufRange_congr fun a h1 h2 => h a h1 (by omega)]

/-- Both memories are in canonical form after reset, and every operation that writes one keeps that form. -/
theorem Memory.wf_resetOf (b c : Nat) : Memory.wf (State.resetOf b c).buf = true ∧ Memory.wf (State.resetOf b c).sym = true :=
  ⟨rfl, rfl⟩

theorem Memory.wf_putBuf (i : Nat) (b : Byte) (h : Memory.wf s.buf = true) : Memory.wf (s.putBuf i b).buf = true :=
  Table.wf_put i b h

theorem Memory.wf_putSym (i : Nat) (b : Byte) (h : Memory.wf s.sym = true) : Memory.wf (s.putSym i b).sym = true :=
  Table.wf_put i b h

theorem Memory.wf_applyReset : Memory.wf s.applyReset.buf = true ∧ Memory.wf s.applyReset.sym = true := ⟨rfl, rfl⟩

end Machine
end Sys2Proof
end

