-- ==== Sys2Proof/Laws/Ops.lean ====
section
/-! SUPPORT. One lemma per shared operation that says everything it can do: how a command ends, the range operand, what
reading each chunk answers, and what each command's body leaves. Proofs cite these instead of unfolding. -/

namespace Sys2Proof.Machine

variable {s t : State}

/-! ### Words -/

theorem low32_toNat {n : Nat} (h : n < 2 ^ 32) : (low32 n).toNat = n := by
  simpa [low32] using h

@[simp] theorem low32_of_toNat (w : Word) : low32 w.toNat = w := by simp [low32]

theorem low32_add (w : Word) (n : Nat) : low32 (w.toNat + n) = w + BitVec.ofNat 32 n := by
  apply BitVec.eq_of_toNat_eq; simp [low32]

/-! ### How a command ends -/

theorem State.finish_ends (s : State) : EndsOk s s.finish := ⟨rfl, rfl, rfl, rfl⟩

theorem State.raise_ends (s : State) (e : ErrCode) (g : Stage) (i : Word) : EndsRaised e g i (s.raise e g i) :=
  ⟨rfl, rfl, rfl, rfl⟩

theorem Body.close_done (s : State) : (Body.done s).close = .next s.finish := rfl

theorem Body.close_raised (s : State) (e : ErrCode) (g : Stage) (i : Word) :
    (Body.raised s e g i).close = .next (s.raise e g i) := rfl

/-- A closed body always answers a next state. -/
theorem Body.close_next (b : Body) : ∃ t, b.close = .next t := by cases b <;> exact ⟨_, rfl⟩

/-- What a closed body answers: the end of the state it ran to, or the error it raised. -/
theorem Body.close_cases {b : Body} (h : b.close = .next t) :
    (∃ u, b = .done u ∧ t = u.finish) ∨ ∃ u e g i, b = .raised u e g i ∧ t = u.raise e g i := by
  cases b with
  | done u => simp only [Body.close, Host.Outcome.next.injEq] at h; exact .inl ⟨u, rfl, h.symm⟩
  | raised u e g i => simp only [Body.close, Host.Outcome.next.injEq] at h; exact .inr ⟨u, e, g, i, rfl, h.symm⟩

/-- The range operand: the whole range lies in the buffer and the command runs on its bytes, or it does not and the
command raises `OutOfBounds` with nothing else done. -/
theorem State.overRange_cases (s : State) (f : List Byte → State) :
    (s.arg0.toNat + s.arg1.toNat ≤ s.buflen.toNat ∧
      s.overRange f = .next (f (s.bufRange s.arg0.toNat s.arg1.toNat)).finish) ∨
    (s.buflen.toNat < s.arg0.toNat + s.arg1.toNat ∧ s.overRange f = .next (s.raise .outOfBounds .none s.arg0)) := by
  by_cases h : s.arg0.toNat + s.arg1.toNat ≤ s.buflen.toNat
  · exact .inl ⟨h, if_pos h⟩
  · exact .inr ⟨by omega, if_neg h⟩

/-! ### Reading the chunks -/

theorem State.readSig_ok {b : List Byte} (h : s.readSig = .ok b) :
    8 ≤ s.buflen.toNat ∧ s.bufRange 0 8 = signature ∧ b = signature := by
  unfold State.readSig at h
  split at h
  · cases h
  · next hc =>
    push Not at hc
    cases h
    exact ⟨hc.1, hc.2, hc.2⟩

theorem State.readSig_err {e : ErrCode} {i : Word} (h : s.readSig = .err e i) :
    ¬ (8 ≤ s.buflen.toNat ∧ s.bufRange 0 8 = signature) ∧ e = .badSignature ∧ i = 0 := by
  unfold State.readSig at h
  split at h
  · next hc => cases h; refine ⟨?_, rfl, rfl⟩; rintro ⟨h1, h2⟩; rcases hc with hc | hc
               · omega
               · exact hc h2
  · cases h

theorem State.readIhdr_ok {o : Nat} {r : IhdrRec} (h : s.readIhdr o = .ok r) :
    o + 25 ≤ s.buflen.toNat ∧ s.be32 o = 13 ∧ s.be32 (o + 4) = tagIhdr ∧ s.be32 (o + 21) = s.chunkCrc o 13 ∧
    r = { off := low32 o, len := 13, type := tagIhdr, width := s.be32 (o + 8), height := s.be32 (o + 12)
          bitdepth := s.bufByte (o + 16), color := s.bufByte (o + 17), comp := s.bufByte (o + 18)
          filter := s.bufByte (o + 19), interlace := s.bufByte (o + 20), crc := s.be32 (o + 21)
          crcCalc := s.chunkCrc o 13 } := by
  unfold State.readIhdr at h
  split at h; · cases h
  split at h; · cases h
  split at h; · cases h
  split at h; · cases h
  split at h; · cases h
  split at h; · cases h
  split at h; · cases h
  rename_i h1 h2 h3 h4 h5 h6 h7
  simp only [not_not, ne_eq] at h1 h2 h3 h4 h5 h6 h7
  cases h
  exact ⟨by omega, h2, h4, h7, by rw [h4]⟩

theorem State.readIdat_ok {o : Nat} {r : IdatRec} (h : s.readIdat o = .ok r) :
    o + 12 + (s.be32 o).toNat ≤ s.buflen.toNat ∧ s.be32 (o + 4) = tagIdat ∧
    (s.strict = true → s.be32 (o + 8 + (s.be32 o).toNat) = s.chunkCrc o (s.be32 o).toNat) ∧
    r = { off := low32 o, len := s.be32 o, type := tagIdat, dataOff := low32 (o + 8)
          crc := s.be32 (o + 8 + (s.be32 o).toNat), crcCalc := s.chunkCrc o (s.be32 o).toNat
          crcOk := s.be32 (o + 8 + (s.be32 o).toNat) == s.chunkCrc o (s.be32 o).toNat
          chunkLen := low32 (12 + (s.be32 o).toNat) } := by
  unfold State.readIdat at h
  extract_lets n at h
  split at h; · cases h
  split at h; · cases h
  split at h; · cases h
  split at h; · cases h
  split at h; · cases h
  split at h; · cases h
  rename_i h1 h2 h3 h4 h5 h6
  simp only [not_not, ne_eq, not_and] at h1 h2 h3 h4 h5 h6
  cases h
  exact ⟨by omega, h3, h6, by rw [h3]⟩

theorem State.readIend_ok {o : Nat} {r : IendRec} (h : s.readIend o = .ok r) :
    o + 12 ≤ s.buflen.toNat ∧ s.be32 o = 0 ∧ s.be32 (o + 4) = tagIend ∧
    (s.strict = true → s.be32 (o + 8) = s.chunkCrc o 0) ∧
    r = { off := low32 o, len := 0, type := tagIend, crc := s.be32 (o + 8), crcCalc := s.chunkCrc o 0
          crcOk := s.be32 (o + 8) == s.chunkCrc o 0 } := by
  unfold State.readIend at h
  split at h; · cases h
  split at h; · cases h
  split at h; · cases h
  split at h; · cases h
  split at h; · cases h
  split at h; · cases h
  rename_i h1 h2 h3 h4 h5 h6
  simp only [not_not, ne_eq, not_and] at h1 h2 h3 h4 h5 h6
  cases h
  exact ⟨by omega, h2, h4, h6, by rw [h4]⟩

/-- The errors reading an IHDR chunk can meet (R252). -/
theorem State.readIhdr_err {o : Nat} {e : ErrCode} {i : Word} (h : s.readIhdr o = .err e i) :
    e ∈ [ErrCode.invalidLength, .unexpectedChunkType, .checksumMismatch, .outOfBounds] := by
  unfold State.readIhdr at h
  repeat' split at h
  all_goals cases h
  all_goals simp

/-- The errors reading an IDAT chunk can meet (R252). -/
theorem State.readIdat_err {o : Nat} {e : ErrCode} {i : Word} (h : s.readIdat o = .err e i) :
    e = .unexpectedChunkType ∨ e = .outOfBounds ∨ (s.strict = true ∧ e = .checksumMismatch) := by
  unfold State.readIdat at h
  extract_lets n at h
  repeat' split at h
  all_goals cases h
  all_goals simp_all

/-- The errors reading an IEND chunk can meet (R252). -/
theorem State.readIend_err {o : Nat} {e : ErrCode} {i : Word} (h : s.readIend o = .err e i) :
    e = .invalidLength ∨ e = .unexpectedChunkType ∨ e = .outOfBounds ∨ (s.strict = true ∧ e = .checksumMismatch) := by
  unfold State.readIend at h
  repeat' split at h
  all_goals cases h
  all_goals simp_all

/-! ### The bodies -/

/-- What the body of `PARSE_SIG` leaves. -/
theorem State.sigBody_cases (s : State) :
    (∃ b, s.readSig = .ok b ∧
      s.sigBody = .done { s with decV := false, sig := some b, pcons := 8, poff := 8 }) ∨
    (∃ e i, s.readSig = .err e i ∧
      s.sigBody = .raised { s with decV := false, sig := none, pcons := 0 } e .signature i) := by
  unfold State.sigBody
  cases h : s.readSig with
  | ok b => exact .inl ⟨b, rfl, rfl⟩
  | err e i => exact .inr ⟨e, i, rfl, rfl⟩

/-- What the body of `PARSE_IHDR` leaves. -/
theorem State.ihdrBody_cases (s : State) :
    (∃ r, s.readIhdr s.poff.toNat = .ok r ∧
      s.ihdrBody =
        .done { s with decV := false, ihdr := some r, pcons := 25, poff := low32 (s.poff.toNat + 25) }) ∨
    (∃ e i, s.readIhdr s.poff.toNat = .err e i ∧
      s.ihdrBody = .raised { s with decV := false, ihdr := none, pcons := 0 } e .ihdr i) := by
  unfold State.ihdrBody
  cases h : s.readIhdr s.poff.toNat with
  | ok r => exact .inl ⟨r, rfl, rfl⟩
  | err e i => exact .inr ⟨e, i, rfl, rfl⟩

/-- What the body of `PARSE_IDAT` leaves. -/
theorem State.idatBody_cases (s : State) :
    (∃ r, s.readIdat s.poff.toNat = .ok r ∧
      s.idatBody =
        .done { s with decV := false, idat := some r, pcons := low32 (12 + r.len.toNat)
                       poff := low32 (s.poff.toNat + 12 + r.len.toNat) }) ∨
    (∃ e i, s.readIdat s.poff.toNat = .err e i ∧
      s.idatBody = .raised { s with decV := false, idat := none, pcons := 0 } e .idat i) := by
  unfold State.idatBody
  cases h : s.readIdat s.poff.toNat with
  | ok r => exact .inl ⟨r, rfl, rfl⟩
  | err e i => exact .inr ⟨e, i, rfl, rfl⟩

/-- What the body of `PARSE_IEND` leaves. -/
theorem State.iendBody_cases (s : State) :
    (∃ r, s.readIend s.poff.toNat = .ok r ∧
      s.iendBody =
        .done { s with decV := false, iend := some r, pcons := 12, poff := low32 (s.poff.toNat + 12) }) ∨
    (∃ e i, s.readIend s.poff.toNat = .err e i ∧
      s.iendBody = .raised { s with decV := false, iend := none, pcons := 0 } e .iend i) := by
  unfold State.iendBody
  cases h : s.readIend s.poff.toNat with
  | ok r => exact .inl ⟨r, rfl, rfl⟩
  | err e i => exact .inr ⟨e, i, rfl, rfl⟩

/-- What the body of `DECODE` leaves, by how its four stages ended. -/
theorem State.decodeBody_cases (s : State) :
    (∃ u, s.decodeStart.decodeStages = .done u ∧ s.decodeBody = .done { u with decV := true, pcons := u.poff }) ∨
    (∃ u e g i, s.decodeStart.decodeStages = .raised u e g i ∧
      s.decodeBody = .raised { u.clearRecords with pcons := 0 } e g i) := by
  unfold State.decodeBody
  cases h : s.decodeStart.decodeStages with
  | done u => exact .inl ⟨u, rfl, rfl⟩
  | raised u e g i => exact .inr ⟨u, e, g, i, rfl, rfl⟩

/-- What the body of `HUFF_TREE` leaves. -/
theorem State.huffTreeBody_cases (s : State) :
    (s.symlen = 0 ∧ s.huffTreeBody = .raised s.clearHuffman .emptyInput .none 0) ∨
    (s.symlen ≠ 0 ∧ ∃ freq, freq = countSymbols (s.symRange 0 s.symlen.toNat) ∧
      s.huffTreeBody =
        .done { s.clearHuffman with
                freq := freq, node := (buildTree freq).1, hroot := low32 (buildTree freq).2
                hnsym := low32 freq.length, hnnode := low32 (2 * freq.length - 1)
                degen := freq.length == 1, treeV := true }) := by
  unfold State.huffTreeBody
  by_cases h : s.symlen = 0
  · exact .inl ⟨h, if_pos h⟩
  · exact .inr ⟨h, _, rfl, if_neg h⟩

/-- What the body of `HUFF_TABLE` leaves. -/
theorem State.huffTableBody_cases (s : State) :
    (s.treeV = false ∧ s.huffTableBody = .raised s .noTree .none 0) ∨
    (s.treeV = true ∧ s.degen = true ∧ s.degenErr = true ∧
      s.huffTableBody = .raised { s with tableV := false, code := [] } .degenerateTree .none 0) ∨
    (s.treeV = true ∧ s.degen = true ∧ s.degenErr = false ∧
      s.huffTableBody =
        .done { s with code := [((s.nodeWord (2 * s.hroot.toNat + 1)).toNat % 256, [false])], tableV := true }) ∨
    (s.treeV = true ∧ s.degen = false ∧
      s.huffTableBody = .done { s with code := codeTable s.node s.hroot.toNat, tableV := true }) := by
  unfold State.huffTableBody
  split
  · next h1 => exact .inl ⟨h1, rfl⟩
  · next h1 =>
    have h1 : s.treeV = true := by simpa using h1
    split
    · next h2 =>
      split
      · next h3 => exact .inr (.inl ⟨h1, h2, h3, rfl⟩)
      · next h3 => exact .inr (.inr (.inl ⟨h1, h2, by simpa using h3, rfl⟩))
    · next h2 => exact .inr (.inr (.inr ⟨h1, by simpa using h2, rfl⟩))

end Sys2Proof.Machine
end

