-- ==== Sys2Proof/Laws/Access.lean ====
section
/-! SUPPORT. What a host access and a step can do, said once: the offsets that name a register that takes a write, the
cases of an access that has a next state, the cases of a step, and the checksum functions over joined sequences. -/

namespace Sys2Proof.Machine

variable {s t : State}

/-! ### Offsets and runs -/

theorem regOfOffset_some {off : Nat} {r : Reg} (h : regOfOffset off = some r) :
    off % 4 = 0 ∧ off ≤ 0xFC ∧ r = regAt (off / 4) := by
  unfold regOfOffset at h
  split at h
  · next hc => exact ⟨hc.1, hc.2, (Option.some.inj h).symm⟩
  · cases h

/-- The seven registers that take a write, by their place in the map (R22). -/
theorem regAt_written {n : Nat} {r : Reg} (h : regAt n = r) :
    (r = .cmd → n = 0x00) ∧ (r = .cfg → n = 0x02) ∧ (r = .arg0 → n = 0x03) ∧ (r = .arg1 → n = 0x04) ∧
    (r = .buflen → n = 0x05) ∧ (r = .symlen → n = 0x06) ∧ (r = .poff → n = 0x10) := by
  unfold regAt at h
  split at h <;> subst h <;> simp

theorem regOfOffset_cmd {off : Nat} (h : regOfOffset off = some .cmd) : off = cmdOffset := by
  obtain ⟨h1, _, h3⟩ := regOfOffset_some h
  have := (regAt_written h3.symm).1 rfl
  unfold cmdOffset
  omega

/-- A read of a register's offset returns what the register reads as. -/
theorem returns_regRead {off : Nat} {r : Reg} (h : regOfOffset off = some r) :
    Returns s (.regRead off) (s.regValue r) :=
  ⟨s.logRead (s.regValue r), by simp only [hostAccess, h], rfl⟩

/-- A step is the next access, or the same state when none is left. -/
theorem step_cases (h : step s = .next t) :
    (s.script = [] ∧ t = s) ∨
      ∃ op rest, s.script = op :: rest ∧ hostAccess op { s with script := rest } = .next t := by
  unfold step stepScript at h
  split at h
  · next hs => exact .inl ⟨hs, (Host.Outcome.next.inj h).symm⟩
  · next op rest hs => exact .inr ⟨op, rest, hs, h⟩

theorem step_cons {op : HostOp} {rest : List HostOp} (h : s.script = op :: rest) :
    step s = hostAccess op { s with script := rest } := by
  unfold step stepScript
  rw [h]

/-- Every access that has a next state is one of six: a read, a register's store, a command word, a byte, a symbol, or
reset. -/
theorem hostAccess_cases {op : HostOp} (h : hostAccess op s = .next t) :
    (isRead op = true ∧ ∃ v, t = s.logRead v) ∨
    (∃ off r v, op = .regWrite off v ∧ regOfOffset off = some r ∧ r ≠ .cmd ∧ t = s.regStore r v) ∨
    (∃ w, op = cmdWrite w ∧ runCommand w s = .next t) ∨
    (∃ i b, op = .bufWrite i b ∧ i < s.bufCap ∧ t = s.putBuf i b) ∨
    (∃ i b, op = .symWrite i b ∧ i < s.symCap ∧ t = s.putSym i b) ∨
    (op = .reset ∧ t = s.applyReset) := by
  unfold hostAccess at h
  cases op with
  | regRead off =>
    simp only at h
    split at h
    · cases h
    · exact .inl ⟨rfl, _, (Host.Outcome.next.inj h).symm⟩
  | regWrite off v =>
    simp only at h
    split at h
    · cases h
    · next r hr =>
      unfold regWrite at h
      split at h
      · next hc =>
        subst hc
        have := regOfOffset_cmd hr
        subst this
        exact .inr (.inr (.inl ⟨v, rfl, h⟩))
      · next hc => exact .inr (.inl ⟨off, r, v, rfl, hr, hc, (Host.Outcome.next.inj h).symm⟩)
  | bufWrite i b =>
    simp only at h
    split at h
    · next hc => exact .inr (.inr (.inr (.inl ⟨i, b, rfl, hc, (Host.Outcome.next.inj h).symm⟩)))
    · cases h
  | symWrite i b =>
    simp only at h
    split at h
    · next hc => exact .inr (.inr (.inr (.inr (.inl ⟨i, b, rfl, hc, (Host.Outcome.next.inj h).symm⟩))))
    · cases h
  | reset => exact .inr (.inr (.inr (.inr (.inr ⟨rfl, (Host.Outcome.next.inj h).symm⟩))))
  | bufRead i => simp only at h; split at h; exacts [.inl ⟨rfl, _, (Host.Outcome.next.inj h).symm⟩, nomatch h]
  | symRead i => simp only at h; split at h; exacts [.inl ⟨rfl, _, (Host.Outcome.next.inj h).symm⟩, nomatch h]
  | freqRead i => simp only at h; split at h; exacts [.inl ⟨rfl, _, (Host.Outcome.next.inj h).symm⟩, nomatch h]
  | nodeRead i => simp only at h; split at h; exacts [.inl ⟨rfl, _, (Host.Outcome.next.inj h).symm⟩, nomatch h]
  | codeRead i => simp only at h; split at h; exacts [.inl ⟨rfl, _, (Host.Outcome.next.inj h).symm⟩, nomatch h]

/-- A register's store leaves all but the six registers the host writes, and the records where it writes `BUFLEN`. -/
theorem regStore_cases (s : State) (r : Reg) (v : Word) :
    s.regStore r v = s ∨ (r = .cfg ∧ s.regStore r v = { s with cfg := v &&& 3 }) ∨
    (r = .arg0 ∧ s.regStore r v = { s with arg0 := v }) ∨ (r = .arg1 ∧ s.regStore r v = { s with arg1 := v }) ∨
    (r = .buflen ∧ s.regStore r v = { s.clearRecords with buflen := low32 (min v.toNat s.bufCap) }) ∨
    (r = .symlen ∧ s.regStore r v = { s with symlen := low32 (min v.toNat s.symCap) }) ∨
    (r = .poff ∧ s.regStore r v = { s with poff := v }) := by
  cases r <;> simp [State.regStore]

/-- A command word runs its command, or is illegal and raises. -/
theorem runCommand_cases {w : Word} (h : runCommand w s = .next t) :
    (∃ i, decodeWord w = .legal i ∧ exec i s = .next t) ∨
    (∃ why, decodeWord w = .illegal why ∧ t = s.illegalCommand w) := by
  unfold runCommand at h
  split at h
  · next i hi => exact .inl ⟨i, hi, h⟩
  · next why hw => exact .inr ⟨why, hw, (Host.Outcome.next.inj h).symm⟩

/-! ### The checksum functions -/

theorem crcFold_append (c : Word) (xs ys : List Byte) : crcFold c (xs ++ ys) = crcFold (crcFold c xs) ys :=
  List.foldl_append

theorem adlerFold_append (p : Nat × Nat) (xs ys : List Byte) :
    adlerFold p (xs ++ ys) = adlerFold (adlerFold p xs) ys :=
  List.foldl_append

theorem adlerStep_lt (p : Nat × Nat) (x : Byte) : (adlerStep p x).1 < 65521 ∧ (adlerStep p x).2 < 65521 :=
  ⟨Nat.mod_lt _ (by decide), Nat.mod_lt _ (by decide)⟩

/-- The sums stay reduced (R55 (a)). -/
theorem adlerFold_lt {p : Nat × Nat} (h1 : p.1 < 65521) (h2 : p.2 < 65521) (bytes : List Byte) :
    (adlerFold p bytes).1 < 65521 ∧ (adlerFold p bytes).2 < 65521 := by
  induction bytes generalizing p with
  | nil => exact ⟨h1, h2⟩
  | cons x xs ih => exact ih (adlerStep_lt p x).1 (adlerStep_lt p x).2

end Sys2Proof.Machine
end

