-- ==== Sys2Proof/Laws/Huffman.lean ====
section
/-! SUPPORT. The basic facts of the Huffman builder: the counts as a table (R201), taking the lightest of a live set
(R203, R204), and one merge. -/

namespace Sys2Proof

/-- The canonical form of a table says that its indices rise strictly. -/
theorem Table.risesFrom_iff {α : Type} {t : Table α} {k : Nat} :
    Table.risesFrom k t = true ↔ List.Pairwise (fun a b : Nat => a < b) (k :: t.map Prod.fst) := by
  induction t generalizing k with
  | nil => simp [Table.risesFrom]
  | cons c t ih =>
    obtain ⟨i, v⟩ := c
    simp only [Table.risesFrom, Bool.and_eq_true, decide_eq_true_eq, ih, List.map_cons, List.pairwise_cons, List.mem_cons,
      forall_eq_or_imp]
    constructor
    · rintro ⟨h1, h2, h3⟩
      exact ⟨⟨h1, fun a ha => Nat.lt_trans h1 (h2 a ha)⟩, h2, h3⟩
    · rintro ⟨⟨h1, -⟩, h2, h3⟩
      exact ⟨h1, h2, h3⟩

theorem Table.wf_iff {α : Type} {t : Table α} :
    Table.wf t = true ↔ List.Pairwise (fun a b : Nat => a < b) (t.map Prod.fst) := by
  cases t with
  | nil => simp [Table.wf]
  | cons c t => obtain ⟨i, v⟩ := c; exact Table.risesFrom_iff

namespace Machine

/-! ### Counting -/

theorem mem_countSymbols {syms : List Byte} {p : Nat × Nat} :
    p ∈ countSymbols syms ↔ p.1 < 256 ∧ p.2 ≠ 0 ∧ p.2 = syms.countP fun b => b.toNat == p.1 := by
  obtain ⟨k, c⟩ := p
  simp only [countSymbols, List.mem_filterMap, List.mem_range]
  constructor
  · rintro ⟨a, ha, h⟩
    split at h
    · cases h
    · next hc => cases h; exact ⟨ha, hc, rfl⟩
  · rintro ⟨h1, h2, h3⟩
    exact ⟨k, h1, by rw [← h3, if_neg h2]⟩

/-- The counts are in canonical form. -/
theorem countSymbols_wf (syms : List Byte) : Table.wf (countSymbols syms) = true := by
  rw [Table.wf_iff, List.pairwise_map]
  unfold countSymbols
  rw [List.pairwise_filterMap]
  refine List.Pairwise.imp ?_ List.pairwise_lt_range
  intro a b hab p hp q hq
  dsimp only at hp hq
  split at hp
  · cases hp
  split at hq
  · cases hq
  cases hp; cases hq
  exact hab

/-- The count a symbol has in the table. -/
theorem find_countSymbols (syms : List Byte) {k : Nat} (hk : k < 256) :
    (Table.find (countSymbols syms) k).getD 0 = syms.countP fun b => b.toNat == k := by
  by_cases hc : (syms.countP fun b => b.toNat == k) = 0
  · rw [Table.find_eq_none, hc, Option.getD_none]
    rintro ⟨i, c⟩ hm rfl
    obtain ⟨-, h2, h3⟩ := mem_countSymbols.1 hm
    exact h2 (h3.trans hc)
  · rw [Table.find_of_mem (countSymbols_wf syms) (mem_countSymbols.2 ⟨hk, hc, rfl⟩)]
    rfl

theorem sum_filterMap_counts (f : Nat → Nat) (l : List Nat) :
    ((l.filterMap fun s => if f s = 0 then none else some (s, f s)).map Prod.snd).sum = (l.map f).sum := by
  induction l with
  | nil => rfl
  | cons x l ih =>
    simp only [List.filterMap_cons]
    split
    · next h => split at h <;> simp_all
    · next h =>
      split at h
      · cases h
      · cases h; simp [ih]

theorem sum_range_indicator {n x : Nat} (h : x < n) : ((List.range n).map fun s => if x == s then 1 else 0).sum = 1 := by
  induction n with
  | zero => omega
  | succ n ih =>
    rw [List.range_succ, List.map_append, List.sum_append]
    rcases Nat.lt_or_ge x n with hx | hx
    · rw [ih hx]; simp; omega
    · have : x = n := by omega
      subst this
      have : ((List.range x).map fun s => if x == s then 1 else 0) = (List.range x).map fun _ => 0 := by
        apply List.map_congr_left
        intro a ha
        have := List.mem_range.1 ha
        simp; omega
      rw [this]
      simp

/-- The counts add up to the length of the sequence. -/
theorem sum_countSymbols (syms : List Byte) : ((countSymbols syms).map Prod.snd).sum = syms.length := by
  refine (sum_filterMap_counts (fun s => syms.countP fun b => b.toNat == s) (List.range 256)).trans ?_
  induction syms with
  | nil => exact List.sum_eq_zero fun a ha => by obtain ⟨_, _, rfl⟩ := List.mem_map.1 ha; rfl
  | cons x xs ih =>
    have h := sum_range_indicator (x := x.toNat) (n := 256) x.isLt
    simp only [List.countP_cons, List.length_cons, List.sum_map_add, ih, h]

/-! ### Taking the lightest -/

/-- What is taken and what is left are the live set. -/
theorem takeLightest_perm (x : Live) (ys : List Live) :
    ((takeLightest x ys).1 :: (takeLightest x ys).2).Perm (x :: ys) := by
  induction ys generalizing x with
  | nil => exact .refl _
  | cons y ys ih =>
    simp only [takeLightest]
    split
    · exact .refl _
    · exact (List.Perm.swap x _ _).trans ((ih y).cons x)

theorem takeLightest_length (x : Live) (ys : List Live) : (takeLightest x ys).2.length = ys.length := by
  have := (takeLightest_perm x ys).length_eq
  simpa using this

theorem lighter_iff {x y : Live} :
    lighter x y = true ↔ x.weight < y.weight ∨ x.weight = y.weight ∧ x.index < y.index := by
  simp [lighter]

/-- Nothing that is left is lighter than what is taken (R203). -/
theorem takeLightest_least (x : Live) (ys : List Live) :
    ∀ z ∈ (takeLightest x ys).2, lighter z (takeLightest x ys).1 = false := by
  induction ys generalizing x with
  | nil => simp [takeLightest]
  | cons y ys ih =>
    have hp := takeLightest_perm y ys
    have hi := ih y
    simp only [takeLightest]
    split
    · next hx =>
      intro z hz
      have hz : z ∈ (takeLightest y ys).1 :: (takeLightest y ys).2 := hp.mem_iff.2 hz
      rw [lighter_iff] at hx
      rw [Bool.eq_false_iff, ne_eq, lighter_iff]
      rcases List.mem_cons.1 hz with rfl | hz
      · dsimp only; omega
      · have := hi z hz
        rw [Bool.eq_false_iff, ne_eq, lighter_iff] at this
        dsimp only; omega
    · next hx =>
      intro z hz
      rcases List.mem_cons.1 hz with rfl | hz
      · simpa using hx
      · exact hi z hz

/-- One merge (R204): the two lightest leave the live set, the new node enters it, and the table grows by that node. -/
theorem mergeAll_succ (rounds : Nat) (nodes : List HNode) (x y : Live) (live : List Live) :
    ∃ f g rest, (takeLightest x (y :: live)).1 = f ∧ (f :: g :: rest).Perm (x :: y :: live) ∧
      (∀ z ∈ g :: rest, lighter z f = false) ∧ (∀ z ∈ rest, lighter z g = false) ∧
      mergeAll (rounds + 1) nodes (x :: y :: live) =
        mergeAll rounds (nodes ++ [.internal (f.weight + g.weight) f.index g.index])
          (⟨f.weight + g.weight, nodes.length⟩ :: rest) := by
  have h1 := takeLightest_perm x (y :: live)
  have h2 := takeLightest_least x (y :: live)
  have h3 := takeLightest_length x (y :: live)
  rcases he : takeLightest x (y :: live) with ⟨f, _ | ⟨z, zs⟩⟩
  · rw [he] at h3; simp at h3
  · rw [he] at h1 h2
    have k1 := takeLightest_perm z zs
    have k2 := takeLightest_least z zs
    refine ⟨f, (takeLightest z zs).1, (takeLightest z zs).2, rfl, (k1.cons f).trans h1, ?_, k2, ?_⟩
    · intro w hw
      exact h2 w (k1.mem_iff.1 hw)
    · simp only [mergeAll, he]

end Machine
end Sys2Proof
end

