-- ==== Sys2Proof/Laws/Parser.lean ====
section
/-! SUPPORT. What reading a chunk depends on: the valid bytes of BUF and, for the trailers of IDAT and IEND, the policy;
and what strict checking accepts, lenient checking reads the same. -/

namespace Sys2Proof.Machine

variable {s t : State}

/-- Two states whose buffers read alike: same length, same cells, same draw of the free values. -/
structure SameBuffer (s t : State) : Prop where
  buflen : t.buflen = s.buflen
  buf : t.buf = s.buf
  resets : t.resets = s.resets

theorem SameBuffer.byte (h : SameBuffer s t) : t.bufByte = s.bufByte := by
  funext a; unfold State.bufByte; rw [h.buf, h.resets]

theorem SameBuffer.range (h : SameBuffer s t) : t.bufRange = s.bufRange := by
  funext i n; exact State.bufRange_congr fun a _ _ => by rw [h.byte]

theorem SameBuffer.word (h : SameBuffer s t) : t.be32 = s.be32 := by
  funext a; unfold State.be32; rw [h.byte]

theorem SameBuffer.crc (h : SameBuffer s t) : t.chunkCrc = s.chunkCrc := by
  funext o n; unfold State.chunkCrc; rw [h.range]

theorem SameBuffer.readSig (h : SameBuffer s t) : t.readSig = s.readSig := by
  unfold State.readSig; rw [h.buflen, h.range]

theorem SameBuffer.readIhdr (h : SameBuffer s t) (o : Nat) : t.readIhdr o = s.readIhdr o := by
  unfold State.readIhdr State.fits; rw [h.buflen, h.byte, h.word, h.crc]

theorem SameBuffer.readIdat (h : SameBuffer s t) (hs : t.strict = s.strict) (o : Nat) : t.readIdat o = s.readIdat o := by
  unfold State.readIdat State.fits; rw [hs, h.buflen, h.word, h.crc]

theorem SameBuffer.readIend (h : SameBuffer s t) (hs : t.strict = s.strict) (o : Nat) : t.readIend o = s.readIend o := by
  unfold State.readIend State.fits; rw [hs, h.buflen, h.word, h.crc]

theorem SameBuffer.lenient (s : State) : SameBuffer s s.lenient := ⟨rfl, rfl, rfl⟩

theorem lenient_strict (s : State) : s.lenient.strict = false := by
  simp [State.lenient, State.strict]

/-- A chunk that strict checking accepts is read the same without the check. -/
theorem readIdat_lenient {o : Nat} {r : IdatRec} (h : s.readIdat o = .ok r) : s.lenient.readIdat o = .ok r := by
  obtain ⟨h1, h2, -, rfl⟩ := State.readIdat_ok h
  unfold State.readIdat State.fits
  simp only [(SameBuffer.lenient s).word, (SameBuffer.lenient s).crc, lenient_strict, (SameBuffer.lenient s).buflen]
  rw [if_neg (by omega), if_neg (by omega), if_neg (by simpa using h2), if_neg (by omega), if_neg (by omega),
    if_neg (by simp), h2]

theorem readIend_lenient {o : Nat} {r : IendRec} (h : s.readIend o = .ok r) : s.lenient.readIend o = .ok r := by
  obtain ⟨h1, h2, h3, -, rfl⟩ := State.readIend_ok h
  unfold State.readIend State.fits
  simp only [(SameBuffer.lenient s).word, (SameBuffer.lenient s).crc, lenient_strict, (SameBuffer.lenient s).buflen]
  rw [if_neg (by omega), if_neg (by simpa using h2), if_neg (by omega), if_neg (by simpa using h3), if_neg (by omega),
    if_neg (by simp), h3]

/-- An offset that lies in the buffer is its own low 32 bits. -/
theorem low32_toNat_le {o : Nat} {w : Word} (h : o ≤ w.toNat) : (low32 o).toNat = o :=
  low32_toNat (lt_of_le_of_lt h w.isLt)

end Sys2Proof.Machine
end

