-- ==== Sys2Proof/Laws/PerInstr.lean ====
section
/-! SUPPORT. The statements about commands as syntax, one lemma per constructor of `Instr`; `LAWS.json` names the
families. -/

/-- R100, R101: the word a command is written as passes every check of a legal word, and its bits 31:16 are 0. -/
def Sys2Proof.Laws.EncodedLegal.Statement (i : Sys2Proof.Instr) : Prop :=
  Sys2Proof.WellFormed.legalWord (Sys2Proof.encode i) = true ∧ Sys2Proof.rsvField (Sys2Proof.encode i) = 0

namespace Sys2Proof.Laws.EncodedLegal

theorem nop : Statement .nop := ⟨by decide, by decide⟩
theorem clrErr : Statement .clrErr := ⟨by decide, by decide⟩
theorem crcInit : Statement .crcInit := ⟨by decide, by decide⟩
theorem crcByte (imm8 : Byte) : Statement (.crcByte imm8) := by unfold Statement; revert imm8; decide
theorem crcBuf : Statement .crcBuf := ⟨by decide, by decide⟩
theorem crc32 : Statement .crc32 := ⟨by decide, by decide⟩
theorem adlerInit : Statement .adlerInit := ⟨by decide, by decide⟩
theorem adlerByte (imm8 : Byte) : Statement (.adlerByte imm8) := by unfold Statement; revert imm8; decide
theorem adlerBuf : Statement .adlerBuf := ⟨by decide, by decide⟩
theorem adler32 : Statement .adler32 := ⟨by decide, by decide⟩
theorem parseSig : Statement .parseSig := ⟨by decide, by decide⟩
theorem parseIhdr : Statement .parseIhdr := ⟨by decide, by decide⟩
theorem parseIdat : Statement .parseIdat := ⟨by decide, by decide⟩
theorem parseIend : Statement .parseIend := ⟨by decide, by decide⟩
theorem decode : Statement .decode := ⟨by decide, by decide⟩
theorem huffTree : Statement .huffTree := ⟨by decide, by decide⟩
theorem huffTable : Statement .huffTable := ⟨by decide, by decide⟩
theorem huffAll : Statement .huffAll := ⟨by decide, by decide⟩

end Sys2Proof.Laws.EncodedLegal
end

