-- ==== Sys2Proof/Tests/Slice0.lean ====
section
/-! SUPPORT. Tests with results taken from the spec's vectors (`95_test_vectors.md`), the smoke tests of `WellFormed` and
`Decode`, and for every obligation with hypotheses a witness that meets them. -/

namespace Sys2Proof.Tests

open Sys2Proof Sys2Proof.Machine

/-! ### Small states -/

/-- Bytes as cells from index 0. -/
def cells (bytes : List Byte) : Memory := bytes.zipIdx.map fun p => (p.2, p.1)

/-- After reset of an instance with small capacities. -/
def fresh : State := State.resetOf 128 64

/-- `load bytes` done (R108), with the range operand over all of them. -/
def loaded (bytes : List Byte) : State :=
  { fresh with buf := cells bytes, buflen := low32 bytes.length, arg1 := low32 bytes.length }

/-- `loadsym syms` done (R108). -/
def symbolsOf (syms : List Byte) : State := { fresh with sym := cells syms, symlen := low32 syms.length }

/-- The command answers a next state of which `p` holds. -/
def after (i : Instr) (s : State) (p : State → Bool) : Bool :=
  match exec i s with
  | .next t => p t
  | .fault _ => false
  | .refused _ => false

/-- The script runs to a state of which `p` holds. -/
def ran (ops : List HostOp) (s : State) (p : State → Bool) : Bool :=
  match runScript ops s with
  | .next t => p t
  | .fault _ => false
  | .refused _ => false

/-- The bytes of "abc". -/
def abc : List Byte := [0x61, 0x62, 0x63]

/-- The bytes of "123456789". -/
def digits : List Byte := [0x31, 0x32, 0x33, 0x34, 0x35, 0x36, 0x37, 0x38, 0x39]

/-- The first 33 bytes of V30: signature and IHDR chunk. -/
def v30Head : List Byte :=
  [0x89, 0x50, 0x4E, 0x47, 0x0D, 0x0A, 0x1A, 0x0A, 0x00, 0x00, 0x00, 0x0D, 0x49, 0x48, 0x44, 0x52, 0x00, 0x00, 0x00, 0x01,
    0x00, 0x00, 0x00, 0x01, 0x08, 0x00, 0x00, 0x00, 0x00, 0x3A, 0x7E, 0x9B, 0x55]

/-- The payload of the IDAT chunk of V30. -/
def v30Payload : List Byte := [0x78, 0x01, 0x01, 0x02, 0x00, 0xFD, 0xFF, 0x00, 0x00, 0x00, 0x02, 0x00, 0x01]

/-- The IEND chunk of V30 (V8). -/
def v30Iend : List Byte := [0x00, 0x00, 0x00, 0x00, 0x49, 0x45, 0x4E, 0x44, 0xAE, 0x42, 0x60, 0x82]

/-- The stream V30, 70 bytes. -/
def v30 : List Byte :=
  v30Head ++ [0x00, 0x00, 0x00, 0x0D, 0x49, 0x44, 0x41, 0x54] ++ v30Payload ++ [0x7E, 0x05, 0x0D, 0xD2] ++ v30Iend

/-- The stream V37, 57 bytes, with an empty IDAT chunk. -/
def v37 : List Byte :=
  v30Head ++ [0x00, 0x00, 0x00, 0x00, 0x49, 0x44, 0x41, 0x54, 0x35, 0xAF, 0x06, 0x1E] ++ v30Iend

/-- V30 with byte `k` changed to `b`. -/
def v30With (k : Nat) (b : Byte) : State := loaded (v30.set k b)

/-- V30 loaded, its first `n` bytes valid, the cursor at `o`, strict checking as asked. -/
def chunkAt (o n : Nat) (cfg : Word) (bytes : List Byte) : State :=
  { loaded bytes with poff := low32 o, buflen := low32 n, cfg := cfg }

/-- A state with one access left. -/
def onlyOp (op : HostOp) (s : State) : State := { s with script := [op] }

/-! ### WellFormed: one illegal word for each check (V21) -/

theorem test_wellformed_rsv : WellFormed.rsvZero 0x00016111 = false ∧ WellFormed.legalWord 0x00016111 = false := by
  decide

theorem test_wellformed_opcode : WellFormed.opcodeKnown 0x00000014 = false ∧ WellFormed.legalWord 0x00000014 = false := by
  decide

theorem test_wellformed_imm : WellFormed.immAllowed 0x0000FF34 = false ∧ WellFormed.legalWord 0x0000FF34 = false := by
  decide

theorem test_wellformed_legal : WellFormed.legalWord 0x0000FF11 = true ∧ WellFormed.legalWord 0x00000042 = true := by
  decide

/-! ### Decode: every command's word, bit by bit from R100 and R102: `rsv` (16 bits), `imm8` (8), `op` (8) -/

theorem test_decode_system :
    decodeWord 0b0000000000000000_00000000_00000000 = .legal .nop ∧
    decodeWord 0b0000000000000000_00000000_00000001 = .legal .clrErr := by decide

theorem test_decode_crc :
    decodeWord 0b0000000000000000_00000000_00010000 = .legal .crcInit ∧
    decodeWord 0b0000000000000000_01100001_00010001 = .legal (.crcByte 0x61) ∧
    decodeWord 0b0000000000000000_10000000_00010001 = .legal (.crcByte 0x80) ∧
    decodeWord 0b0000000000000000_00000000_00010010 = .legal .crcBuf ∧
    decodeWord 0b0000000000000000_00000000_00010011 = .legal .crc32 := by decide

theorem test_decode_adler :
    decodeWord 0b0000000000000000_00000000_00100000 = .legal .adlerInit ∧
    decodeWord 0b0000000000000000_00000001_00100001 = .legal (.adlerByte 0x01) ∧
    decodeWord 0b0000000000000000_11111111_00100001 = .legal (.adlerByte 0xFF) ∧
    decodeWord 0b0000000000000000_00000000_00100010 = .legal .adlerBuf ∧
    decodeWord 0b0000000000000000_00000000_00100011 = .legal .adler32 := by decide

theorem test_decode_parser :
    decodeWord 0b0000000000000000_00000000_00110000 = .legal .parseSig ∧
    decodeWord 0b0000000000000000_00000000_00110001 = .legal .parseIhdr ∧
    decodeWord 0b0000000000000000_00000000_00110010 = .legal .parseIdat ∧
    decodeWord 0b0000000000000000_00000000_00110011 = .legal .parseIend ∧
    decodeWord 0b0000000000000000_00000000_00110100 = .legal .decode := by decide

theorem test_decode_huffman :
    decodeWord 0b0000000000000000_00000000_01000000 = .legal .huffTree ∧
    decodeWord 0b0000000000000000_00000000_01000001 = .legal .huffTable ∧
    decodeWord 0b0000000000000000_00000000_01000010 = .legal .huffAll := by decide

/-- V21. -/
theorem test_decode_illegal :
    decodeWord 0x00000002 = .illegal .reservedOpcode ∧ decodeWord 0x00000024 = .illegal .reservedOpcode ∧
    decodeWord 0x00000035 = .illegal .reservedOpcode ∧ decodeWord 0x00000043 = .illegal .reservedOpcode ∧
    decodeWord 0x000000FF = .illegal .reservedOpcode ∧ decodeWord 0x00000110 = .illegal .immediateNotZero ∧
    decodeWord 0x00010040 = .illegal .reservedBits ∧ decodeWord 0xFFFFFFFF = .illegal .reservedBits := by decide

/-- The words of V20, as the script notation encodes them (R107). -/
theorem test_encode_words :
    encode .decode = 0x00000034 ∧ encode (.crcByte 0x61) = 0x00006111 ∧ encode (.adlerByte 0x61) = 0x00006121 ∧
    encode .huffAll = 0x00000042 := by decide

theorem test_decode_table_word :
    decodeTableWord 32 0x00006111 = some (.crcByte 0x61) ∧ decodeTableWord 32 0x00000113 = none := by decide

/-! ### The step -/

/-- R24: the word placed by `withFetchWord` is run by the very next step. -/
theorem test_step_runs_word :
    (match step (fresh.withFetchWord 32 0x00006111) with
      | .next t => t.crcState == 0x174841BC && t.script == []
      | .fault _ => false
      | .refused _ => false) = true := by decide

/-- V21: an illegal word. -/
theorem test_step_illegal_word :
    ran [.regWrite 0x00 0x00010040, .regRead 0x04, .regRead 0x1C] fresh
      (fun t => t.reads == [0x00000108, 0x00010040] && t.hstat == 0) = true := by decide

/-- V22: accesses of read-only and reserved registers. -/
theorem test_register_access :
    ran [.regWrite 0x20 0, .regRead 0x20, .regWrite 0x04 0xFFFFFFFF, .regRead 0x04, .regRead 0x00, .regWrite 0x34 7,
        .regRead 0x34] fresh
      (fun t => t.reads == [0xFFFFFFFF, 0, 0, 0]) = true := by decide

/-- V22: masked and saturating registers. -/
theorem test_register_limits :
    ran [.regWrite 0x08 0xFFFFFFFF, .regRead 0x08, .regWrite 0x14 0xFFFFFFFF, .regRead 0x14, .regWrite 0x18 0xFFFFFFFF,
        .regRead 0x18, .regWrite 0x40 0xFFFFFFFF, .regRead 0x40] fresh
      (fun t => t.reads == [3, 128, 64, 0xFFFFFFFF]) = true := by decide

/-- V39: writing a byte with the value it has invalidates the records. -/
theorem test_buffer_write_invalidates :
    ran [.bufWrite 69 0x82, .regRead 0x48] { loaded v37 with sig := some signature, decV := true, poff := 70, pcons := 70 }
      (fun t => t.reads == [0] && t.poff == 70 && t.pcons == 70 && t.sig == none) = true := by decide

/-! ### System commands -/

/-- R240. -/
theorem test_nop :
    after .nop { fresh with status := ⟨.noTree, .none, true⟩, errinfo := 7 }
      (fun t => t.statusWord == 0x100 && t.errinfo == 0) = true := by decide

/-- R241. -/
theorem test_clrErr :
    after .clrErr { fresh with status := ⟨.outOfBounds, .idat, true⟩, errinfo := 0x29 }
      (fun t => t.statusWord == 0 && t.errinfo == 0) = true := by decide

/-! ### CRC-32 (V2 to V6) -/

theorem test_crcInit : after .crcInit { fresh with crcState := 0 } (fun t => t.regValue .crcValue == 0) = true := by decide

theorem test_crcByte :
    after (.crcByte 0x80) { fresh with crcState := 0 } (fun t => t.crcState == 0xEDB88320) = true ∧
    after (.crcByte 0xFF) fresh (fun t => t.crcState == 0x00FFFFFF) = true := by decide

theorem test_crcBuf : after .crcBuf (loaded abc) (fun t => t.crcState == 0xCADBBE3D) = true := by decide +kernel

theorem test_crcBuf_outside :
    after .crcBuf { loaded abc with arg0 := 0xFFFFFFFF, arg1 := 2 }
      (fun t => t.status.err == .outOfBounds && t.errinfo == 0xFFFFFFFF && t.crcState == 0xFFFFFFFF) = true := by decide

theorem test_crc32 :
    after .crc32 { loaded digits with crcState := 0 } (fun t => t.regValue .crcValue == 0xCBF43926) = true := by
  decide +kernel

/-- V6: an empty range at the very end of the buffer is legal. -/
theorem test_crc32_empty_at_end :
    after .crc32 { loaded digits with arg0 := 9, arg1 := 0 } (fun t => t.statusWord == 0 && t.regValue .crcValue == 0) =
      true := by decide

/-! ### Adler-32 (V11, V12, V14) -/

theorem test_adlerInit :
    after .adlerInit { fresh with adlerA := 5, adlerB := 6 } (fun t => t.regValue .adlerValue == 1) = true := by decide

theorem test_adlerByte :
    after (.adlerByte 0x01) { fresh with adlerA := 65520, adlerB := 65520 } (fun t => t.adlerA == 0 && t.adlerB == 65520) =
      true ∧
    after (.adlerByte 0x62) { fresh with adlerA := 98, adlerB := 98 } (fun t => t.adlerA == 196 && t.adlerB == 294) =
      true := by decide

theorem test_adlerBuf : after .adlerBuf (loaded abc) (fun t => t.regValue .adlerValue == 0x024D0127) = true := by decide

theorem test_adlerBuf_outside :
    after .adlerBuf { loaded abc with arg0 := 4, arg1 := 0 }
      (fun t => t.statusWord == 0x107 && t.errinfo == 4 && t.adlerA == 1) = true := by decide

theorem test_adler32 :
    after .adler32 { loaded digits with adlerA := 9 } (fun t => t.adlerA == 478 && t.adlerB == 2334) = true := by decide

/-! ### Chunk parser (V30 to V37) -/

/-- The layout of R160 makes V30 and V37. -/
theorem test_png_layout :
    pngBytes 1 1 8 0 0 0 0 v30Payload = v30 ∧ pngBytes 1 1 8 0 0 0 0 [] = v37 := by decide +kernel

theorem test_parseSig :
    after .parseSig { loaded v30Head with poff := 5 }
      (fun t => t.regValue .sigHi == 0x89504E47 && t.regValue .sigLo == 0x0D0A1A0A && t.poff == 8) = true := by decide

/-- V32 row 4. -/
theorem test_parseSig_bad : after .parseSig (v30With 4 0x0A) (fun t => t.statusWord == 0x111 && t.errinfo == 0) = true := by
  decide

theorem test_parseIhdr :
    after .parseIhdr (chunkAt 8 33 0 v30Head)
      (fun t => t.regValue .ihdrBitdepth == 8 && t.regValue .ihdrCrcCalc == 0x3A7E9B55 && t.poff == 33 && t.pcons == 25) =
      true := by decide +kernel

/-- V32 row 6. -/
theorem test_parseIhdr_length :
    after .parseIhdr { v30With 11 0x0E with poff := 8 } (fun t => t.statusWord == 0x122 && t.errinfo == 0x0E) = true := by
  decide

theorem test_parseIdat :
    after .parseIdat (chunkAt 33 70 1 v30)
      (fun t => t.regValue .idatLen == 13 && t.regValue .idatDataOff == 41 && t.regValue .idatCrc == 0x7E050DD2 &&
        t.poff == 58 && t.pcons == 25) = true := by decide +kernel

/-- V32 row 12. -/
theorem test_parseIdat_outside :
    after .parseIdat { v30With 33 0xFF with poff := 33 } (fun t => t.statusWord == 0x137 && t.errinfo == 0x29) = true := by
  decide

theorem test_parseIend :
    after .parseIend (chunkAt 58 70 1 v30) (fun t => t.regValue .iendCrcCalc == 0xAE426082 && t.poff == 70) = true := by
  decide +kernel

/-- V33: the trailer is enforced in strict mode only. -/
theorem test_parseIend_policy :
    after .parseIend (chunkAt 58 70 0 (v30.set 69 0x83)) (fun t => t.statusWord == 0 && t.pstat == 0x008) = true ∧
    after .parseIend (chunkAt 58 70 1 (v30.set 69 0x83)) (fun t => t.statusWord == 0x144 && t.errinfo == 0xAE426082) =
      true := by decide +kernel

/-- V37. -/
theorem test_decode_stream :
    after .decode { loaded v37 with cfg := 1 }
      (fun t => t.statusWord == 0 && t.pstat == 0x71F && t.poff == 57 && t.pcons == 57 && t.regValue .iendOff == 45) =
      true := by decide +kernel

/-- V34: the buffer ends inside the IDAT chunk. -/
theorem test_decode_truncated :
    after .decode { loaded v30 with buflen := 57 }
      (fun t => t.statusWord == 0x137 && t.errinfo == 0x36 && t.poff == 33 && t.pstat == 0) = true := by decide +kernel

/-! ### Huffman (V40 to V47) -/

/-- The source's sequence of V40. -/
def v40 : State := symbolsOf [0, 0, 0, 1, 1, 2]

theorem test_huffTree :
    after .huffTree v40
      (fun t => t.nodeWord 7 == 0xC0010002 && t.nodeWord 9 == 0xC0030000 && t.nodeWord 8 == 6 && t.hroot == 4 &&
        t.freqWord 1 == 2 && t.hstat == 1) = true := by decide +kernel

/-- V43. -/
theorem test_huffTree_empty : after .huffTree fresh (fun t => t.statusWord == 0x105 && t.hstat == 0) = true := by decide

/-- V42: one distinct symbol. -/
theorem test_huffTable :
    after .huffTable { fresh with treeV := true, degen := true, hnsym := 1, hnnode := 1, node := [.leaf 200 1] }
      (fun t => t.codeWord 3200 == 0x80000001 && t.codeWord 3201 == 0 && t.hstat == 7) = true ∧
    after .huffTable { fresh with treeV := true, degen := true, hnsym := 1, hnnode := 1, node := [.leaf 200 1], cfg := 2 }
      (fun t => t.status.err == .degenerateTree && t.hstat == 5 && t.codeWord 3200 == 0) = true := by decide

/-- V43. -/
theorem test_huffTable_no_tree : after .huffTable fresh (fun t => t.statusWord == 0x109) = true := by decide

theorem test_huffAll :
    after .huffAll v40
      (fun t => t.codeOf 0 == [false] && t.codeOf 1 == [true, true] && t.codeOf 2 == [true, false] &&
        t.codeWord 17 == 3 && t.codeWord 32 == 0x80000002 && t.codeWord 33 == 1 && t.hstat == 3) = true := by
  decide +kernel

/-- V41: the tie-break of `[0,1,2,3,4]`. -/
theorem test_huffAll_ties :
    after .huffAll (symbolsOf [0, 1, 2, 3, 4])
      (fun t => t.codeOf 0 == [true, true, false] && t.codeOf 2 == [false, false] && t.codeOf 4 == [true, false]) = true := by
  decide +kernel

/-- V47: a code of more than 32 bits; path bit 32 is bit 0 of word 2. -/
theorem test_long_code_words :
    codeEntryWord (List.replicate 33 true ++ [false]) 0 = 0x80000022 ∧
    codeEntryWord (List.replicate 33 true ++ [false]) 1 = 0xFFFFFFFF ∧
    codeEntryWord (List.replicate 33 true ++ [false]) 2 = 1 ∧
    codeEntryWord (List.replicate 34 true) 2 = 3 := by decide

/-! ### Witnesses: states and operands that meet the hypotheses of each obligation, clause by clause -/

theorem test_hyp_LegalWordSelectsOneCommand :
    WellFormed.legalWord 0x0000FF21 = true ∧ WellFormed.legalWord 0x00010000 = false := by decide

theorem test_hyp_StepRunsDecodedCommand :
    (onlyOp (.regRead 0x04) fresh).script = [.regRead 0x04] ∧ decodeWord 0x00000034 = .legal .decode ∧
    fresh.script = [] := by decide

theorem test_hyp_IllegalWordRaises : WellFormed.legalWord 0x00000100 = false := by decide

theorem test_hyp_ClrErrClearsStatus :
    after .clrErr { fresh with status := ⟨.noTree, .none, true⟩ } (fun t => t.status.sticky == false) = true := by decide

theorem test_hyp_CommandRaisesOnlyItsErrors :
    (∃ t, exec .huffTable fresh = .next t ∧ t.status.err ≠ .ok) ∧ (∃ t, exec .decode fresh = .next t ∧ t.status.err ≠ .ok) :=
  ⟨⟨_, rfl, by decide⟩, ⟨_, rfl, by decide⟩⟩

theorem test_hyp_CommandsKeepInputs : ∃ t, exec .parseIdat (loaded abc) = .next t := ⟨_, rfl⟩

/-- `CrcBufAbsorbsRange`, `Crc32LeavesChecksum`, `AdlerBufAbsorbsRange`, `Adler32LeavesChecksum`, `OneShotIsInitThenBuf`: a
range that ends at `BUFLEN`, and one byte more (V6). -/
theorem test_hyp_range_commands :
    (loaded digits).arg0.toNat + (loaded digits).arg1.toNat ≤ (loaded digits).buflen.toNat ∧
    ({ loaded digits with arg0 := 1 } : State).buflen.toNat <
      ({ loaded digits with arg0 := 1 } : State).arg0.toNat + ({ loaded digits with arg0 := 1 } : State).arg1.toNat := by
  decide

/-- `IncrementalCrcIsCrcOfMessage`, `IncrementalAdlerIsAdlerOfMessage`: an immediate byte, a range and an empty range. -/
theorem test_hyp_incremental_checksums :
    ∀ p ∈ [Piece.byte 0x49, .range 0 3, .range 3 0], p.inBuffer (loaded abc) := by
  intro p hp
  rcases hp with _ | ⟨_, _ | ⟨_, _ | ⟨_, h⟩⟩⟩
  · trivial
  · exact (by decide : 0 + 3 ≤ (loaded abc).buflen.toNat)
  · exact (by decide : 3 + 0 ≤ (loaded abc).buflen.toNat)
  · cases h

theorem test_hyp_ParseSigChecksMagic :
    (8 ≤ (loaded (v30.take 8)).buflen.toNat ∧
      (loaded (v30.take 8)).bufRange 0 8 = [0x89, 0x50, 0x4E, 0x47, 0x0D, 0x0A, 0x1A, 0x0A]) ∧
    ¬ (8 ≤ (loaded (v30.take 7)).buflen.toNat ∧
      (loaded (v30.take 7)).bufRange 0 8 = [0x89, 0x50, 0x4E, 0x47, 0x0D, 0x0A, 0x1A, 0x0A]) ∧
    ¬ (8 ≤ (v30With 4 0x0A).buflen.toNat ∧
      (v30With 4 0x0A).bufRange 0 8 = [0x89, 0x50, 0x4E, 0x47, 0x0D, 0x0A, 0x1A, 0x0A]) := by
  refine ⟨by decide, ?_, by decide⟩
  rintro ⟨h, -⟩
  exact absurd h (by decide)

/-- The IHDR chunk of V30 at offset 8, whole; its length, tag and trailer changed (V32); and the buffer cut one byte
before the end of each field (V34). -/
theorem test_hyp_ParseIhdrReadsChunk :
    (8 + 25 ≤ (chunkAt 8 33 0 v30Head).buflen.toNat ∧ (chunkAt 8 33 0 v30Head).be32 8 = 13 ∧
      (chunkAt 8 33 0 v30Head).be32 12 = 0x49484452 ∧
      (chunkAt 8 33 0 v30Head).be32 29 = crc32 ((chunkAt 8 33 0 v30Head).bufRange 12 17)) ∧
    (chunkAt 8 11 0 v30Head).buflen.toNat < 8 + 4 ∧
    (8 + 4 ≤ (chunkAt 8 12 0 (v30Head.set 11 0x0E)).buflen.toNat ∧ (chunkAt 8 12 0 (v30Head.set 11 0x0E)).be32 8 ≠ 13) ∧
    (8 + 4 ≤ (chunkAt 8 15 0 v30Head).buflen.toNat ∧ (chunkAt 8 15 0 v30Head).be32 8 = 13 ∧
      (chunkAt 8 15 0 v30Head).buflen.toNat < 8 + 8) ∧
    (8 + 8 ≤ (chunkAt 8 16 0 (v30Head.set 15 0x58)).buflen.toNat ∧ (chunkAt 8 16 0 (v30Head.set 15 0x58)).be32 8 = 13 ∧
      (chunkAt 8 16 0 (v30Head.set 15 0x58)).be32 12 ≠ 0x49484452) ∧
    (8 + 8 ≤ (chunkAt 8 28 0 v30Head).buflen.toNat ∧ (chunkAt 8 28 0 v30Head).be32 8 = 13 ∧
      (chunkAt 8 28 0 v30Head).be32 12 = 0x49484452 ∧ (chunkAt 8 28 0 v30Head).buflen.toNat < 8 + 21) ∧
    (8 + 21 ≤ (chunkAt 8 32 0 v30Head).buflen.toNat ∧ (chunkAt 8 32 0 v30Head).be32 8 = 13 ∧
      (chunkAt 8 32 0 v30Head).be32 12 = 0x49484452 ∧ (chunkAt 8 32 0 v30Head).buflen.toNat < 8 + 25) ∧
    (8 + 25 ≤ (chunkAt 8 33 0 (v30Head.set 32 0x54)).buflen.toNat ∧ (chunkAt 8 33 0 (v30Head.set 32 0x54)).be32 8 = 13 ∧
      (chunkAt 8 33 0 (v30Head.set 32 0x54)).be32 12 = 0x49484452 ∧
      (chunkAt 8 33 0 (v30Head.set 32 0x54)).be32 29 ≠ crc32 ((chunkAt 8 33 0 (v30Head.set 32 0x54)).bufRange 12 17)) := by
  decide +kernel

/-- The IDAT chunk of V30 at offset 33 in strict mode, whole; its trailer changed (V33) in both modes; its tag changed
(V32); and the buffer cut one byte before the end of each field (V34). -/
theorem test_hyp_ParseIdatReadsChunk :
    (33 + 12 + 13 ≤ (chunkAt 33 58 1 v30).buflen.toNat ∧ (chunkAt 33 58 1 v30).be32 33 = 13 ∧
      (chunkAt 33 58 1 v30).be32 37 = 0x49444154 ∧ (chunkAt 33 58 1 v30).strict = true ∧
      (chunkAt 33 58 1 v30).be32 54 = crc32 ((chunkAt 33 58 1 v30).bufRange 37 17)) ∧
    ((chunkAt 33 58 0 (v30.set 57 0x52)).be32 37 = 0x49444154 ∧ (chunkAt 33 58 0 (v30.set 57 0x52)).strict = false) ∧
    (chunkAt 33 36 1 v30).buflen.toNat < 33 + 4 ∧
    (33 + 4 ≤ (chunkAt 33 40 1 v30).buflen.toNat ∧ (chunkAt 33 40 1 v30).buflen.toNat < 33 + 8) ∧
    (33 + 8 ≤ (chunkAt 33 41 1 (v30.set 38 0x45)).buflen.toNat ∧
      (chunkAt 33 41 1 (v30.set 38 0x45)).be32 37 ≠ 0x49444154) ∧
    (33 + 8 ≤ (chunkAt 33 53 1 v30).buflen.toNat ∧ (chunkAt 33 53 1 v30).be32 37 = 0x49444154 ∧
      (chunkAt 33 53 1 v30).buflen.toNat < 33 + 8 + 13) ∧
    (33 + 8 + 13 ≤ (chunkAt 33 57 1 v30).buflen.toNat ∧ (chunkAt 33 57 1 v30).be32 37 = 0x49444154 ∧
      (chunkAt 33 57 1 v30).buflen.toNat < 33 + 12 + 13) ∧
    (33 + 12 + 13 ≤ (chunkAt 33 58 1 (v30.set 57 0x52)).buflen.toNat ∧
      (chunkAt 33 58 1 (v30.set 57 0x52)).be32 37 = 0x49444154 ∧ (chunkAt 33 58 1 (v30.set 57 0x52)).strict = true ∧
      (chunkAt 33 58 1 (v30.set 57 0x52)).be32 54 ≠ crc32 ((chunkAt 33 58 1 (v30.set 57 0x52)).bufRange 37 17)) := by
  decide +kernel

/-- An IEND chunk at offset 0: whole in strict mode; its trailer, length and tag changed; and the buffer cut one byte
before the end of each field. -/
theorem test_hyp_ParseIendReadsChunk :
    (0 + 12 ≤ (chunkAt 0 12 1 v30Iend).buflen.toNat ∧ (chunkAt 0 12 1 v30Iend).be32 0 = 0 ∧
      (chunkAt 0 12 1 v30Iend).be32 4 = 0x49454E44 ∧ (chunkAt 0 12 1 v30Iend).strict = true ∧
      (chunkAt 0 12 1 v30Iend).be32 8 = 0xAE426082) ∧
    ((chunkAt 0 12 0 (v30Iend.set 11 0x83)).be32 8 = 0xAE426083 ∧ (chunkAt 0 12 0 (v30Iend.set 11 0x83)).strict = false) ∧
    (chunkAt 0 3 1 v30Iend).buflen.toNat < 0 + 4 ∧
    (0 + 4 ≤ (chunkAt 0 4 1 (v30Iend.set 3 0x01)).buflen.toNat ∧ (chunkAt 0 4 1 (v30Iend.set 3 0x01)).be32 0 ≠ 0) ∧
    (0 + 4 ≤ (chunkAt 0 7 1 v30Iend).buflen.toNat ∧ (chunkAt 0 7 1 v30Iend).be32 0 = 0 ∧
      (chunkAt 0 7 1 v30Iend).buflen.toNat < 0 + 8) ∧
    (0 + 8 ≤ (chunkAt 0 8 1 (v30Iend.set 5 0x65)).buflen.toNat ∧ (chunkAt 0 8 1 (v30Iend.set 5 0x65)).be32 0 = 0 ∧
      (chunkAt 0 8 1 (v30Iend.set 5 0x65)).be32 4 ≠ 0x49454E44) ∧
    (0 + 8 ≤ (chunkAt 0 11 1 v30Iend).buflen.toNat ∧ (chunkAt 0 11 1 v30Iend).be32 0 = 0 ∧
      (chunkAt 0 11 1 v30Iend).be32 4 = 0x49454E44 ∧ (chunkAt 0 11 1 v30Iend).buflen.toNat < 0 + 12) ∧
    (0 + 12 ≤ (chunkAt 0 12 1 (v30Iend.set 11 0x83)).buflen.toNat ∧ (chunkAt 0 12 1 (v30Iend.set 11 0x83)).be32 0 = 0 ∧
      (chunkAt 0 12 1 (v30Iend.set 11 0x83)).be32 4 = 0x49454E44 ∧ (chunkAt 0 12 1 (v30Iend.set 11 0x83)).strict = true ∧
      (chunkAt 0 12 1 (v30Iend.set 11 0x83)).be32 8 ≠ 0xAE426082) := by
  decide +kernel

theorem test_hyp_DecodeRecoversStream :
    57 + v30Payload.length ≤ (loaded v30).buflen.toNat ∧
    (loaded v30).bufRange 0 (57 + v30Payload.length) = pngBytes 1 1 8 0 0 0 0 v30Payload := by decide +kernel

/-- One failed `DECODE` for each stage (V34). -/
theorem test_hyp_FailedDecodeLeavesNothing :
    ∀ n ∈ [7, 30, 57, 60], after .decode { loaded v30 with buflen := BitVec.ofNat 32 n }
      (fun t => decide (t.status.err ≠ .ok)) = true := by decide +kernel

/-- The four parses of V37 in turn, all successful; `DecodeEqualsFourParses` asks for no more than the five states, and the
next theorem ends each of the stages with an error. -/
theorem test_hyp_DecodeEqualsFourParses :
    ran [Script.cmd .parseSig, .regRead 0x04, Script.cmd .parseIhdr, .regRead 0x04, Script.cmd .parseIdat, .regRead 0x04,
        Script.cmd .parseIend, .regRead 0x04, Script.cmd .decode, .regRead 0x04] (loaded v37)
      (fun t => t.reads == [0, 0, 0, 0, 0]) = true := by decide +kernel

/-- V32 rows 4, 6, 8 and 9: the first stage in error is 1, 2, 3 and 4. -/
theorem test_hyp_DecodeEqualsFourParses_errors :
    ∀ p ∈ [(4, 0x0A#8, 0x111#32), (11, 0x0E#8, 0x122#32), (38, 0x45#8, 0x133#32), (63, 0x65#8, 0x143#32)],
      ran [Script.cmd .parseSig, Script.cmd .parseIhdr, Script.cmd .parseIdat, Script.cmd .parseIend, Script.cmd .decode,
          .regRead 0x04] (v30With p.1 p.2.1)
        (fun t => t.reads == [p.2.2]) = true := by decide +kernel

/-- Two states that differ only above `BUFLEN` and `SYMLEN`, at the first index above. -/
theorem test_hyp_BytesBeyondLengthsUnread :
    let s : State := { fresh with buflen := 1, symlen := 1, buf := [(0, 7), (1, 8)], sym := [(0, 1), (1, 2)] }
    let u : State := { s with buf := [(0, 7), (1, 9)], sym := [(0, 1), (1, 3)] }
    u = { s with buf := u.buf, sym := u.sym } ∧ u ≠ s ∧
      (∀ a, a < s.buflen.toNat → u.bufByte a = s.bufByte a) ∧ (∀ a, a < s.symlen.toNat → u.symByte a = s.symByte a) := by
  decide

theorem test_hyp_HuffTreeOfNothingRaises : fresh.symlen = 0 := by decide

theorem test_hyp_HuffTreeCountsAndRoot : (symbolsOf [200]).symlen ≠ 0 := by decide

theorem test_hyp_EachMergeTakesTheTwoLightest :
    after .huffTree v40 (fun t => t.status.err == .ok && t.node[3]? == some (.internal 3 2 1)) = true := by decide +kernel

/-- `TreeOwnershipAndWeights`: a tree with internal nodes 3 and 4, and a single leaf. -/
theorem test_hyp_TreeOwnershipAndWeights :
    after .huffTree v40 (fun t => t.status.err == .ok && t.hroot == 4 && t.node.length == 5 && t.hnsym == 3) = true ∧
    after .huffTree (symbolsOf [200]) (fun t => t.status.err == .ok && t.hroot == 0) = true := by decide +kernel

theorem test_hyp_TreeDependsOnCountsOnly :
    (symbolsOf [0, 1]).symlen = (symbolsOf [1, 0]).symlen ∧ (symbolsOf [0, 1]).cfg = (symbolsOf [1, 0]).cfg ∧
    ∀ b : Byte, (symbolsOf [0, 1]).count b = (symbolsOf [1, 0]).count b := by decide +kernel

theorem test_hyp_HuffAllIsTreeThenTable :
    v40.symlen ≠ 0 ∧ v40.degenErr = false ∧ fresh.symlen = 0 ∧
    after .huffAll { symbolsOf [200] with cfg := 2 } (fun t => decide (t.status.err ≠ .ok)) = true := by decide +kernel

/-- The single-leaf tree of the symbol 200, with either option. -/
def oneLeaf (cfg : Word) : State :=
  { fresh with treeV := true, degen := true, hnsym := 1, hnnode := 1, freq := [(200, 1)], node := [.leaf 200 1], cfg := cfg }

theorem test_hyp_HuffTableEdgeCases :
    fresh.treeV = false ∧
    ((oneLeaf 0).treeV = true ∧ (oneLeaf 0).degen = true ∧ (oneLeaf 0).node = [.leaf 200 1] ∧ (oneLeaf 0).hroot = 0 ∧
      (oneLeaf 0).degenErr = false) ∧
    ((oneLeaf 2).treeV = true ∧ (oneLeaf 2).degen = true ∧ (oneLeaf 2).degenErr = true) ∧
    (after .huffTree { symbolsOf [200] with cfg := 2 } (fun t => t.status.err == .ok && t.degen) = true ∧
      ({ symbolsOf [200] with cfg := 2 } : State).degenErr = true) := by decide +kernel

theorem test_hyp_HuffTableIsFresh :
    after .huffTree v40 (fun t => t.treeV == true && t.degen == false &&
      ({ t with code := [(9, [true])], tableV := true } : State) == { t with code := [(9, [true])], tableV := true }) =
      true := by decide +kernel

/-- `CodesArePrefixFree`, `MoreFrequentNoLongerCode`, `CodeLengthBounds`, `TreeDecodesTheEncoding`: two symbols that occur,
one more often, in a run that succeeds with more than one symbol. -/
theorem test_hyp_code_table_properties :
    after .huffAll v40 (fun t => t.status.err == .ok && decide (2 ≤ t.hnsym.toNat)) = true ∧
    0 < v40.count 1 ∧ v40.count 1 < v40.count 0 ∧ (0 : Byte) ≠ 1 := by decide +kernel

/-- An entry with a path of 255 bits, and a symbol without one. -/
theorem test_hyp_CodePortLayout :
    let s : State := { fresh with code := [(255, List.replicate 255 true)] }
    Table.find s.code (255 : Byte).toNat = some (List.replicate 255 true) ∧ (List.replicate 255 true).length ≤ 255 ∧
      Table.find s.code (0 : Byte).toNat = none := by decide +kernel

theorem test_hyp_NodePortLayout :
    let s : State := { fresh with node := [.leaf 255 1, .internal 1 511 0] }
    s.node[0]? = some (.leaf 255 1) ∧ s.node[1]? = some (.internal 1 511 0) ∧ 511 < 512 ∧ s.node[2]? = none := by decide

/-- The last access inside each port's size and the first outside it. -/
theorem test_hyp_AccessOutsidePortRefused :
    (inPort fresh (.regRead 0xFC) ∧ inPort fresh (.bufWrite 127 0) ∧ inPort fresh (.symRead 63) ∧
      inPort fresh (.freqRead 255) ∧ inPort fresh (.nodeRead 1021) ∧ inPort fresh (.codeRead 4095)) ∧
    ¬ inPort fresh (.regWrite 0x100 0) ∧ ¬ inPort fresh (.regRead 0xFB) ∧ ¬ inPort fresh (.bufRead 128) ∧
      ¬ inPort fresh (.symWrite 64 0) ∧ ¬ inPort fresh (.freqRead 256) ∧ ¬ inPort fresh (.nodeRead 1022) ∧
      ¬ inPort fresh (.codeRead 4096) := by
  simp only [inPort]
  decide

theorem test_hyp_ReadsChangeNothing :
    isRead (.codeRead 4095) = true ∧ ∃ t, hostAccess (.codeRead 4095) fresh = .next t := ⟨rfl, _, rfl⟩

/-- The other clauses of `ReadsChangeNothing`: each record held and not held, the edges of the offset ranges and of the
ports, and a count held and not held. -/
theorem test_hyp_ReadsChangeNothing_values :
    after .decode (loaded v37) (fun t => t.sig == some [0x89, 0x50, 0x4E, 0x47, 0x0D, 0x0A, 0x1A, 0x0A] &&
      t.ihdr.isSome && t.idat.isSome && t.iend.isSome) = true ∧
    (fresh.sig = none ∧ fresh.ihdr = none ∧ fresh.idat = none ∧ fresh.iend = none) ∧
    (∀ off ∈ [0x34, 0x3C, 0xB4, 0xBC, 0xD0, 0xFC], off % 4 = 0 ∧
      ((0x34 ≤ off ∧ off ≤ 0x3C) ∨ (0xB4 ≤ off ∧ off ≤ 0xBC) ∨ (0xD0 ≤ off ∧ off ≤ 0xFC))) ∧
    (∀ off ∈ [0x54, 0x80, 0x84, 0x9C, 0xA0, 0xB0], off % 4 = 0) ∧
    (127 < fresh.bufCap ∧ 63 < fresh.symCap) ∧
    Table.find ({ fresh with freq := [(255, 3)] } : State).freq 255 = some 3 ∧ Table.find fresh.freq 255 = none := by
  decide +kernel

/-- V31: what the record registers read as after `DECODE`, with the five one-byte fields of V38 told apart. -/
theorem test_record_registers :
    ran ([0x68, 0x6C, 0x70, 0x74, 0x78, 0x54, 0x58].map HostOp.regRead)
      { fresh with ihdr := some ⟨8, 13, 0x49484452, 1, 1, 8, 6, 1, 2, 7, 0, 0⟩ }
      (fun t => t.reads == [8, 6, 1, 2, 7, 8, 13]) = true ∧
    ran ([0x94, 0x98].map HostOp.regRead)
      { fresh with idat := some ⟨33, 13, 0x49444154, 41, 0x7E050D52, 0x7E050DD2, false, 25⟩ }
      (fun t => t.reads == [0x7E050D52, 0x7E050DD2]) = true := by decide

/-- The smallest and the largest capacities are within R9, and the edges of the three reserved ranges are offsets. -/
theorem test_hyp_WrittenRegisterReadsBack :
    CapacityInv fresh ∧ CapacityInv (State.resetOf 1 (2 ^ 32 - 1)) ∧
    ∀ off ∈ [0x34, 0x3C, 0xB4, 0xBC, 0xD0, 0xFC],
      off % 4 = 0 ∧ ((0x34 ≤ off ∧ off ≤ 0x3C) ∨ (0xB4 ≤ off ∧ off ≤ 0xBC) ∨ (0xD0 ≤ off ∧ off ≤ 0xFC)) := by
  refine ⟨⟨?_, ?_, ?_, ?_⟩, ⟨?_, ?_, ?_, ?_⟩, ?_⟩ <;> decide

theorem test_hyp_ReadOnlyWritesIgnored :
    ∀ off ∈ [0x04, 0x1C, 0x44, 0xFC],
      off % 4 = 0 ∧ off ≤ 0xFC ∧ off ∉ [0x00, 0x08, 0x0C, 0x10, 0x14, 0x18, 0x40] := by decide

theorem test_hyp_BufferChangeInvalidatesRecords : 127 < fresh.bufCap ∧ 63 < fresh.symCap := by decide

/-- `StateHasItsWriters`: an access that is no reset and has a next state, and one for each of its clauses that changes the
part of the state the clause speaks of. -/
theorem test_hyp_StateHasItsWriters :
    ran [Script.cmd .clrErr] { fresh with status := ⟨.ok, .none, true⟩ } (fun t => t.status.sticky == false) = true ∧
    ran [Script.cmd (.crcByte 0)] fresh (fun t => t.crcState != fresh.crcState) = true ∧
    ran [Script.cmd (.adlerByte 0)] fresh (fun t => t.adlerB != fresh.adlerB) = true ∧
    ran [.regWrite 0x40 1] fresh (fun t => t.poff != fresh.poff) = true ∧
    ran [Script.cmd .parseSig] { fresh with pcons := 8 } (fun t => t.pcons != 8) = true ∧
    ran [.bufWrite 0 0] { fresh with decV := true } (fun t => t.decV == false) = true ∧
    ran [.regWrite 0x14 0] { fresh with decV := true } (fun t => t.decV == false) = true ∧
    ran [Script.cmd .parseIend] { fresh with decV := true } (fun t => t.decV == false) = true ∧
    ran [.regWrite 0x00 0x00000002] fresh (fun t => t.status != fresh.status && t.errinfo != fresh.errinfo) = true ∧
    ran [.regWrite 0x0C 1, .regWrite 0x10 1, .regWrite 0x14 1, .regWrite 0x18 1] fresh
      (fun t => t.arg0 != 0 && t.arg1 != 0 && t.buflen != 0 && t.symlen != 0) = true ∧
    ran [.bufWrite 127 1, .symWrite 63 1] { fresh with buf := [(127, 0)], sym := [(63, 0)] }
      (fun t => t.bufByte 127 != 0 && t.symByte 63 != 0) = true ∧
    ran [.regWrite 0x08 1] fresh (fun t => t.cfg != fresh.cfg) = true ∧
    ran [Script.cmd .huffAll] v40 (fun t => t.treeV != v40.treeV && t.tableV != v40.tableV) = true := by decide +kernel

theorem test_hyp_ChecksumPseudoOperations :
    (0 : Word).toNat + (3 : Word).toNat ≤ (loaded abc).buflen.toNat ∧
    (3 : Word).toNat + (0 : Word).toNat ≤ (loaded abc).buflen.toNat := by decide

/-- An instance that just holds the stream of 57 bytes. -/
theorem test_hyp_LoadDecodeReadsWidthAndHeight :
    CapacityInv (State.resetOf 57 1) ∧ 57 + ([] : List Byte).length ≤ (State.resetOf 57 1).bufCap := by
  refine ⟨⟨?_, ?_, ?_, ?_⟩, ?_⟩ <;> decide

/-- `StepKeepsInv`: a state that meets the invariant, with an access left that has a next state. -/
theorem test_hyp_StepKeepsInv :
    (onlyOp (Script.cmd .decode) fresh).Inv ∧ ∃ t, step (onlyOp (Script.cmd .decode) fresh) = .next t := by
  refine ⟨⟨⟨?_, ?_, ?_, ?_⟩, ⟨?_, ?_, ?_⟩, ⟨?_, ?_, ?_⟩, ⟨nofun, nofun, nofun, nofun, nofun⟩,
    ⟨fun _ => ?_, ?_, nofun, fun _ => rfl, nofun⟩, ⟨?_, ?_⟩⟩, ⟨_, rfl⟩⟩ <;> decide

end Sys2Proof.Tests
end

section
/-! The invariant (R55) after reset and over every step: congruence lemmas for its parts, the part of it that a
command's body keeps, and one lemma per body. -/

namespace Sys2Proof.Machine

variable {s t : State}

/-! ### The parts of the invariant read few fields -/

theorem CapacityInv.congr (h : CapacityInv s) (hr : SameRun s t) (ho : SameOperands s t) : CapacityInv t := by
  obtain ⟨hb, hs, hbl, hsl⟩ := h
  rw [← hr.bufCap] at hb
  rw [← hr.symCap] at hs
  rw [← ho.buflen, ← hr.bufCap] at hbl
  rw [← ho.symlen, ← hr.symCap] at hsl
  exact ⟨hb, hs, hbl, hsl⟩

theorem RegisterInv.congr (h : RegisterInv s) (ha : SameAdler s t) (hc : t.cfg = s.cfg) : RegisterInv t :=
  ⟨by rw [ha.adlerA]; exact h.adlerA, by rw [ha.adlerB]; exact h.adlerB, by rw [hc]; exact h.cfg⟩

theorem HuffmanInv.congr (h : HuffmanInv s) (ht : SameTree s t) (hc : SameTable s t) : HuffmanInv t := by
  obtain ⟨hnoTree, hcounts, htree, hnoTable, htable⟩ := h
  constructor
  · rw [ht.treeV, ht.degen, ht.hnsym, ht.hroot, ht.hnnode, ht.freq, ht.node]; exact hnoTree
  · rw [ht.freq]; exact hcounts
  · rw [ht.treeV, ht.degen, ht.hnsym, ht.hroot, ht.hnnode, ht.freq, ht.node]; exact htree
  · rw [hc.tableV, hc.code]; exact hnoTable
  · rw [hc.tableV, hc.code, ht.treeV, ht.degen, ht.hroot, ht.node]; exact htable

theorem MemoryInv.congr (h : MemoryInv s) (hr : SameRun s t) (hb : t.buf = s.buf) (hs : t.sym = s.sym) :
    MemoryInv t :=
  ⟨by rw [hb, hr.bufCap]; exact h.buf, by rw [hs, hr.symCap]; exact h.sym⟩

theorem SameBuffer.both_lenient (h : SameBuffer s t) : SameBuffer s.lenient t.lenient := ⟨h.buflen, h.buf, h.resets⟩

theorem SameBuffer.readIdat_lenient (h : SameBuffer s t) (o : Nat) : t.lenient.readIdat o = s.lenient.readIdat o :=
  h.both_lenient.readIdat (by rw [lenient_strict, lenient_strict]) o

theorem SameBuffer.readIend_lenient (h : SameBuffer s t) (o : Nat) : t.lenient.readIend o = s.lenient.readIend o :=
  h.both_lenient.readIend (by rw [lenient_strict, lenient_strict]) o

/-- The records of a state may be read in any state with the same buffer. -/
theorem RecordInv.of_read (h : SameBuffer s t) (hsig : ∀ b, t.sig = some b → s.readSig = .ok b)
    (hihdr : ∀ r, t.ihdr = some r → s.readIhdr r.off.toNat = .ok r)
    (hidat : ∀ r, t.idat = some r → s.lenient.readIdat r.off.toNat = .ok r)
    (hiend : ∀ r, t.iend = some r → s.lenient.readIend r.off.toNat = .ok r)
    (hdec : t.decV = true → ∃ b h d e, t.sig = some b ∧ t.ihdr = some h ∧ t.idat = some d ∧ t.iend = some e ∧
      h.off.toNat = 8 ∧ d.off.toNat = 33 ∧ e.off.toNat = 45 + d.len.toNat) :
    RecordInv t where
  sig b hb := h.readSig.trans (hsig b hb)
  ihdr r hr := (h.readIhdr _).trans (hihdr r hr)
  idat r hr := (h.readIdat_lenient _).trans (hidat r hr)
  iend r hr := (h.readIend_lenient _).trans (hiend r hr)
  decoded := hdec

/-- With `DEC_V` clear nothing is asked of the offsets. -/
theorem RecordInv.of_undecoded (h : SameBuffer s t) (hsig : ∀ b, t.sig = some b → s.readSig = .ok b)
    (hihdr : ∀ r, t.ihdr = some r → s.readIhdr r.off.toNat = .ok r)
    (hidat : ∀ r, t.idat = some r → s.lenient.readIdat r.off.toNat = .ok r)
    (hiend : ∀ r, t.iend = some r → s.lenient.readIend r.off.toNat = .ok r) (hdec : t.decV = false) :
    RecordInv t :=
  .of_read h hsig hihdr hidat hiend fun hd => by rw [hdec] at hd; cases hd

theorem RecordInv.of_cleared (hsig : t.sig = none) (hihdr : t.ihdr = none) (hidat : t.idat = none)
    (hiend : t.iend = none) (hdec : t.decV = false) : RecordInv t := by
  constructor <;> simp [hsig, hihdr, hidat, hiend, hdec]

theorem RecordInv.congr (h : RecordInv s) (hb : SameBuffer s t) (hr : SameRecords s t) : RecordInv t :=
  .of_read hb (hr.sig ▸ h.sig) (hr.ihdr ▸ h.ihdr) (hr.idat ▸ h.idat) (hr.iend ▸ h.iend)
    (by rw [hr.decV, hr.sig, hr.ihdr, hr.idat, hr.iend]; exact h.decoded)

/-! ### What a command's body keeps -/

/-- The invariant but for `STATUS` and `ERRINFO`, which only the end of a command writes (R253, R254). -/
structure DataInv (s : State) : Prop where
  capacity : CapacityInv s
  registers : RegisterInv s
  records : RecordInv s
  huffman : HuffmanInv s
  memory : MemoryInv s

theorem State.Inv.data (h : s.Inv) : DataInv s := ⟨h.capacity, h.registers, h.records, h.huffman, h.memory⟩

theorem DataInv.inv (h : DataInv s) (hs : StatusInv s) : s.Inv :=
  ⟨h.capacity, h.registers, hs, h.records, h.huffman, h.memory⟩

/-- `CRC_STATE`, the cursor and the outcome are not spoken of by the rest of the invariant. -/
theorem DataInv.set_free (h : DataInv s) (crc poff pcons errinfo : Word) (status : Status) :
    DataInv { s with crcState := crc, poff := poff, pcons := pcons, errinfo := errinfo, status := status } where
  capacity := h.capacity.congr ⟨rfl, rfl, rfl, rfl, rfl⟩ ⟨rfl, rfl, rfl, rfl, rfl⟩
  registers := h.registers.congr ⟨rfl, rfl⟩ rfl
  records := h.records.congr ⟨rfl, rfl, rfl⟩ ⟨rfl, rfl, rfl, rfl, rfl⟩
  huffman := h.huffman.congr ⟨rfl, rfl, rfl, rfl, rfl, rfl, rfl⟩ ⟨rfl, rfl⟩
  memory := h.memory.congr ⟨rfl, rfl, rfl, rfl, rfl⟩ rfl rfl

theorem DataInv.set_host (h : DataInv s) (script : List HostOp) (reads : List Word) (arg0 arg1 : Word) :
    DataInv { s with script := script, reads := reads, arg0 := arg0, arg1 := arg1 } where
  capacity := ⟨h.capacity.bufCap, h.capacity.symCap, h.capacity.buflen, h.capacity.symlen⟩
  registers := h.registers.congr ⟨rfl, rfl⟩ rfl
  records := h.records.congr ⟨rfl, rfl, rfl⟩ ⟨rfl, rfl, rfl, rfl, rfl⟩
  huffman := h.huffman.congr ⟨rfl, rfl, rfl, rfl, rfl, rfl, rfl⟩ ⟨rfl, rfl⟩
  memory := ⟨h.memory.buf, h.memory.sym⟩

theorem DataInv.set_sums (h : DataInv s) {a b : Word} (ha : a.toNat < 65521) (hb : b.toNat < 65521) :
    DataInv { s with adlerA := a, adlerB := b } where
  capacity := h.capacity.congr ⟨rfl, rfl, rfl, rfl, rfl⟩ ⟨rfl, rfl, rfl, rfl, rfl⟩
  registers := ⟨ha, hb, h.registers.cfg⟩
  records := h.records.congr ⟨rfl, rfl, rfl⟩ ⟨rfl, rfl, rfl, rfl, rfl⟩
  huffman := h.huffman.congr ⟨rfl, rfl, rfl, rfl, rfl, rfl, rfl⟩ ⟨rfl, rfl⟩
  memory := h.memory.congr ⟨rfl, rfl, rfl, rfl, rfl⟩ rfl rfl

theorem DataInv.setAdler (h : DataInv s) {p : Nat × Nat} (hp : p.1 < 65521 ∧ p.2 < 65521) : DataInv (s.setAdler p) :=
  h.set_sums (by rw [low32_toNat (by omega)]; exact hp.1) (by rw [low32_toNat (by omega)]; exact hp.2)

/-- New records and a new cursor: what the parse commands leave (R178). -/
theorem DataInv.set_records (h : DataInv s) {sig : Option (List Byte)} {ihdr : Option IhdrRec} {idat : Option IdatRec}
    {iend : Option IendRec} {decV : Bool} (poff pcons : Word)
    (hr : RecordInv { s with sig := sig, ihdr := ihdr, idat := idat, iend := iend, decV := decV, poff := poff
                             pcons := pcons }) :
    DataInv { s with sig := sig, ihdr := ihdr, idat := idat, iend := iend, decV := decV, poff := poff
                     pcons := pcons } where
  capacity := h.capacity.congr ⟨rfl, rfl, rfl, rfl, rfl⟩ ⟨rfl, rfl, rfl, rfl, rfl⟩
  registers := h.registers.congr ⟨rfl, rfl⟩ rfl
  records := hr
  huffman := h.huffman.congr ⟨rfl, rfl, rfl, rfl, rfl, rfl, rfl⟩ ⟨rfl, rfl⟩
  memory := h.memory.congr ⟨rfl, rfl, rfl, rfl, rfl⟩ rfl rfl

theorem DataInv.clearRecords (h : DataInv s) : DataInv s.clearRecords :=
  h.set_records s.poff s.pcons (.of_cleared rfl rfl rfl rfl rfl)

/-- A new tree and a new table: what the Huffman commands leave (R217). -/
theorem DataInv.set_huffman (h : DataInv s) {treeV tableV degen : Bool} {hnsym hroot hnnode : Word} {freq : Table Nat}
    {node : List HNode} {code : Table (List Bool)}
    (hi : HuffmanInv { s with treeV := treeV, tableV := tableV, degen := degen, hnsym := hnsym, hroot := hroot
                              hnnode := hnnode, freq := freq, node := node, code := code }) :
    DataInv { s with treeV := treeV, tableV := tableV, degen := degen, hnsym := hnsym, hroot := hroot
                     hnnode := hnnode, freq := freq, node := node, code := code } where
  capacity := h.capacity.congr ⟨rfl, rfl, rfl, rfl, rfl⟩ ⟨rfl, rfl, rfl, rfl, rfl⟩
  registers := h.registers.congr ⟨rfl, rfl⟩ rfl
  records := h.records.congr ⟨rfl, rfl, rfl⟩ ⟨rfl, rfl, rfl, rfl, rfl⟩
  huffman := hi
  memory := h.memory.congr ⟨rfl, rfl, rfl, rfl, rfl⟩ rfl rfl

/-- The errors that have a stage (R25, R252). -/
def stagedErrors : List ErrCode :=
  [.badSignature, .invalidLength, .unexpectedChunkType, .checksumMismatch, .outOfBounds]

/-- A successful end leaves the outcome the invariant asks for. -/
theorem DataInv.finish (h : DataInv s) : s.finish.Inv :=
  (h.set_free s.crcState s.poff s.pcons 0 _).inv ⟨fun e => absurd rfl e, fun _ => ⟨rfl, rfl⟩, fun e => absurd rfl e⟩

theorem DataInv.raise (h : DataInv s) {e : ErrCode} {g : Stage} (he : e ≠ .ok) (hg : g ≠ .none → e ∈ stagedErrors)
    (i : Word) : (s.raise e g i).Inv :=
  (h.set_free s.crcState s.poff s.pcons i _).inv ⟨fun _ => rfl, fun h => absurd h he, hg⟩

/-- A body that keeps the invariant whichever way it ends. -/
def Body.Sound : Body → Prop
  | .done s => DataInv s
  | .raised s e g _ => DataInv s ∧ e ≠ .ok ∧ (g ≠ .none → e ∈ stagedErrors)

theorem Body.Sound.close {b : Body} (hb : b.Sound) (h : b.close = .next t) : t.Inv := by
  obtain ⟨u, rfl, rfl⟩ | ⟨u, e, g, i, rfl, rfl⟩ := Body.close_cases h
  · exact DataInv.finish hb
  · obtain ⟨hu, he, hg⟩ := hb
    exact hu.raise he hg i

theorem Body.Sound.andThen {b : Body} {f : State → Body} (hb : b.Sound) (hf : ∀ u, DataInv u → (f u).Sound) :
    (b.andThen f).Sound := by
  cases b with
  | done u => exact hf u hb
  | raised u e g i => exact hb

/-! ### The bodies of the parse commands -/

/-- The record of an IHDR chunk is read again at the offset it holds. -/
theorem readIhdr_off {o : Nat} {r : IhdrRec} (h : s.readIhdr o = .ok r) : r.off.toNat = o := by
  obtain ⟨hfit, -, -, -, rfl⟩ := State.readIhdr_ok h
  exact low32_toNat_le (w := s.buflen) (by omega)

theorem readIdat_off {o : Nat} {r : IdatRec} (h : s.readIdat o = .ok r) : r.off.toNat = o := by
  obtain ⟨hfit, -, -, rfl⟩ := State.readIdat_ok h
  exact low32_toNat_le (w := s.buflen) (by omega)

theorem readIend_off {o : Nat} {r : IendRec} (h : s.readIend o = .ok r) : r.off.toNat = o := by
  obtain ⟨hfit, -, -, -, rfl⟩ := State.readIend_ok h
  exact low32_toNat_le (w := s.buflen) (by omega)

/-- The chunk whose record was read lies in the buffer. -/
theorem readIdat_fits {o : Nat} {r : IdatRec} (h : s.readIdat o = .ok r) : o + 12 + r.len.toNat ≤ s.buflen.toNat := by
  obtain ⟨hfit, -, -, rfl⟩ := State.readIdat_ok h
  exact hfit

theorem readIhdr_err_staged {o : Nat} {e : ErrCode} {i : Word} (h : s.readIhdr o = .err e i) : e ∈ stagedErrors := by
  have := State.readIhdr_err h
  simp only [List.mem_cons, List.not_mem_nil, or_false] at this
  rcases this with rfl | rfl | rfl | rfl <;> decide

theorem readIdat_err_staged {o : Nat} {e : ErrCode} {i : Word} (h : s.readIdat o = .err e i) : e ∈ stagedErrors := by
  rcases State.readIdat_err h with rfl | rfl | ⟨-, rfl⟩ <;> decide

theorem readIend_err_staged {o : Nat} {e : ErrCode} {i : Word} (h : s.readIend o = .err e i) : e ∈ stagedErrors := by
  rcases State.readIend_err h with rfl | rfl | rfl | ⟨-, rfl⟩ <;> decide

theorem stagedErrors_ne_ok {e : ErrCode} (h : e ∈ stagedErrors) : e ≠ .ok := by
  rintro rfl; revert h; decide

/-- A body that meets a parser's error is sound when what it leaves is. -/
theorem Body.sound_raised_staged {e : ErrCode} (h : DataInv s) (he : e ∈ stagedErrors) (g : Stage) (i : Word) :
    (Body.raised s e g i).Sound :=
  ⟨h, stagedErrors_ne_ok he, fun _ => he⟩

theorem sigBody_sound (h : DataInv s) : s.sigBody.Sound := by
  obtain ⟨b, hb, he⟩ | ⟨e, i, hb, he⟩ := s.sigBody_cases <;> rw [he]
  · exact h.set_records 8 8 (.of_undecoded (s := s) ⟨rfl, rfl, rfl⟩ (by rintro _ ⟨⟩; exact hb) h.records.ihdr
      h.records.idat h.records.iend rfl)
  · obtain ⟨-, rfl, -⟩ := State.readSig_err hb
    exact Body.sound_raised_staged (h.set_records s.poff 0 (.of_undecoded (s := s) ⟨rfl, rfl, rfl⟩ (by simp)
      h.records.ihdr h.records.idat h.records.iend rfl)) (by decide) _ _

theorem ihdrBody_sound (h : DataInv s) : s.ihdrBody.Sound := by
  obtain ⟨r, hr, he⟩ | ⟨e, i, hr, he⟩ := s.ihdrBody_cases <;> rw [he]
  · exact h.set_records (low32 (s.poff.toNat + 25)) 25 (.of_undecoded (s := s) ⟨rfl, rfl, rfl⟩ h.records.sig
      (by rintro _ ⟨⟩; rw [readIhdr_off hr]; exact hr) h.records.idat h.records.iend rfl)
  · exact Body.sound_raised_staged (h.set_records s.poff 0 (.of_undecoded (s := s) ⟨rfl, rfl, rfl⟩ h.records.sig
      (by simp) h.records.idat h.records.iend rfl)) (readIhdr_err_staged hr) _ _

theorem idatBody_sound (h : DataInv s) : s.idatBody.Sound := by
  obtain ⟨r, hr, he⟩ | ⟨e, i, hr, he⟩ := s.idatBody_cases <;> rw [he]
  · exact h.set_records (low32 (s.poff.toNat + 12 + r.len.toNat)) (low32 (12 + r.len.toNat))
      (.of_undecoded (s := s) ⟨rfl, rfl, rfl⟩ h.records.sig h.records.ihdr
        (by rintro _ ⟨⟩; rw [readIdat_off hr]; exact readIdat_lenient hr) h.records.iend rfl)
  · exact Body.sound_raised_staged (h.set_records s.poff 0 (.of_undecoded (s := s) ⟨rfl, rfl, rfl⟩ h.records.sig
      h.records.ihdr (by simp) h.records.iend rfl)) (readIdat_err_staged hr) _ _

theorem iendBody_sound (h : DataInv s) : s.iendBody.Sound := by
  obtain ⟨r, hr, he⟩ | ⟨e, i, hr, he⟩ := s.iendBody_cases <;> rw [he]
  · exact h.set_records (low32 (s.poff.toNat + 12)) 12 (.of_undecoded (s := s) ⟨rfl, rfl, rfl⟩ h.records.sig
      h.records.ihdr h.records.idat (by rintro _ ⟨⟩; rw [readIend_off hr]; exact readIend_lenient hr) rfl)
  · exact Body.sound_raised_staged (h.set_records s.poff 0 (.of_undecoded (s := s) ⟨rfl, rfl, rfl⟩ h.records.sig
      h.records.ihdr h.records.idat (by simp) rfl)) (readIend_err_staged hr) _ _

theorem Body.andThen_done {b : Body} {f : State → Body} {u : State} (h : b.andThen f = .done u) :
    ∃ v, b = .done v ∧ f v = .done u := by
  cases b with
  | done v => exact ⟨v, rfl, h⟩
  | raised v e g i => cases h

/-- A body that ran to its end was not raised, and so ended as its success case says. -/
theorem sigBody_done {u : State} (h : s.sigBody = .done u) :
    ∃ b, s.readSig = .ok b ∧ u = { s with decV := false, sig := some b, pcons := 8, poff := 8 } := by
  obtain ⟨b, hb, he⟩ | ⟨e, i, hb, he⟩ := s.sigBody_cases <;> rw [he] at h <;> cases h
  exact ⟨b, hb, rfl⟩

theorem ihdrBody_done {u : State} (h : s.ihdrBody = .done u) :
    ∃ r, s.readIhdr s.poff.toNat = .ok r ∧
      u = { s with decV := false, ihdr := some r, pcons := 25, poff := low32 (s.poff.toNat + 25) } := by
  obtain ⟨r, hr, he⟩ | ⟨e, i, hr, he⟩ := s.ihdrBody_cases <;> rw [he] at h <;> cases h
  exact ⟨r, hr, rfl⟩

theorem idatBody_done {u : State} (h : s.idatBody = .done u) :
    ∃ r, s.readIdat s.poff.toNat = .ok r ∧
      u = { s with decV := false, idat := some r, pcons := low32 (12 + r.len.toNat)
                   poff := low32 (s.poff.toNat + 12 + r.len.toNat) } := by
  obtain ⟨r, hr, he⟩ | ⟨e, i, hr, he⟩ := s.idatBody_cases <;> rw [he] at h <;> cases h
  exact ⟨r, hr, rfl⟩

theorem iendBody_done {u : State} (h : s.iendBody = .done u) :
    ∃ r, s.readIend s.poff.toNat = .ok r ∧
      u = { s with decV := false, iend := some r, pcons := 12, poff := low32 (s.poff.toNat + 12) } := by
  obtain ⟨r, hr, he⟩ | ⟨e, i, hr, he⟩ := s.iendBody_cases <;> rw [he] at h <;> cases h
  exact ⟨r, hr, rfl⟩

/-- `DECODE` that runs to its end has read the four chunks one behind the other (R174, R175). -/
theorem decodeStages_done {u : State} (h : s.decodeStages = .done u) :
    ∃ b r d e, s.readSig = .ok b ∧ s.readIhdr 8 = .ok r ∧ s.readIdat 33 = .ok d ∧
      s.readIend (45 + d.len.toNat) = .ok e ∧
      u = { s with decV := false, sig := some b, ihdr := some r, idat := some d, iend := some e, pcons := 12
                   poff := low32 (57 + d.len.toNat) } := by
  unfold State.decodeStages at h
  obtain ⟨s1, h1, h⟩ := Body.andThen_done h
  obtain ⟨s2, h2, h⟩ := Body.andThen_done h
  obtain ⟨s3, h3, h4⟩ := Body.andThen_done h
  obtain ⟨b, hb, rfl⟩ := sigBody_done h1
  obtain ⟨r, hr, rfl⟩ := ihdrBody_done h2
  obtain ⟨d, hd, rfl⟩ := idatBody_done h3
  obtain ⟨e, he, rfl⟩ := iendBody_done h4
  have h8 : (8 : Word).toNat = 8 := rfl
  have h33 : (low32 (8 + 25)).toNat = 33 := low32_toNat (by omega)
  dsimp only at hr hd he ⊢
  rw [h8] at hr hd he ⊢
  rw [h33] at hd he ⊢
  have hr' : s.readIhdr 8 = .ok r := by
    rw [← hr]; symm; exact SameBuffer.readIhdr ⟨rfl, rfl, rfl⟩ _
  have hd' : s.readIdat 33 = .ok d := by
    rw [← hd]; symm; exact SameBuffer.readIdat (by exact ⟨rfl, rfl, rfl⟩) (by exact rfl) _
  have hfit := readIdat_fits hd'
  have h45 : (low32 (33 + 12 + d.len.toNat)).toNat = 45 + d.len.toNat :=
    low32_toNat_le (w := s.buflen) (by omega)
  rw [h45] at he ⊢
  have he' : s.readIend (45 + d.len.toNat) = .ok e := by
    rw [← he]; symm; exact SameBuffer.readIend (by exact ⟨rfl, rfl, rfl⟩) (by exact rfl) _
  refine ⟨b, r, d, e, hb, hr', hd', he', ?_⟩
  rw [show 45 + d.len.toNat + 12 = 57 + d.len.toNat by omega]

theorem decodeStages_sound (h : DataInv s) : s.decodeStages.Sound :=
  (sigBody_sound h).andThen fun _ h1 => (ihdrBody_sound h1).andThen fun _ h2 => (idatBody_sound h2).andThen fun _ h3 =>
    iendBody_sound h3

theorem decodeStart_data (h : DataInv s) : DataInv s.decodeStart :=
  h.set_records 0 0 (.of_cleared rfl rfl rfl rfl rfl)

theorem decodeBody_sound (h : DataInv s) : s.decodeBody.Sound := by
  have hs := decodeStages_sound (decodeStart_data h)
  obtain ⟨u, hu, he⟩ | ⟨u, e, g, i, hu, he⟩ := s.decodeBody_cases <;> rw [he] <;> rw [hu] at hs
  · obtain ⟨b, r, d, e, hb, hr, hd, hie, rfl⟩ := decodeStages_done hu
    refine DataInv.set_records hs _ _ ?_
    refine .of_read (s := s.decodeStart) ⟨rfl, rfl, rfl⟩ ?_ ?_ ?_ ?_
      fun _ => ⟨b, r, d, e, rfl, rfl, rfl, rfl, readIhdr_off hr, readIdat_off hd, readIend_off hie⟩
    · rintro _ ⟨⟩; exact hb
    · rintro _ ⟨⟩; rw [readIhdr_off hr]; exact hr
    · rintro _ ⟨⟩; rw [readIdat_off hd]; exact readIdat_lenient hd
    · rintro _ ⟨⟩; rw [readIend_off hie]; exact readIend_lenient hie
  · obtain ⟨hu, he, hg⟩ := hs
    exact ⟨hu.clearRecords.set_free _ _ 0 _ _, he, hg⟩

end Sys2Proof.Machine
end

section
/-! The Huffman bodies, every command and every access keep the invariant (R55); O59 and O60. -/

namespace Sys2Proof.Machine

variable {s t : State}

/-! ### The bodies of the Huffman commands -/

theorem State.clearHuffman_inv (s : State) : HuffmanInv s.clearHuffman where
  noTree _ := ⟨rfl, rfl, rfl, rfl, rfl, rfl⟩
  counts := ⟨rfl, nofun, Nat.two_pow_pos 32⟩
  tree := nofun
  noTable _ := rfl
  table := nofun

/-- The counts of a sequence are a table of positive counts of byte values (R48, R201). -/
theorem countSymbols_counts {syms : List Byte} (h : syms.length < 2 ^ 32) :
    Table.wf (countSymbols syms) = true ∧ (∀ p ∈ countSymbols syms, p.1 < 256 ∧ 1 ≤ p.2) ∧
      ((countSymbols syms).map Prod.snd).sum < 2 ^ 32 := by
  refine ⟨countSymbols_wf syms, fun p hp => ?_, by rw [sum_countSymbols]; exact h⟩
  obtain ⟨hlt, hne, -⟩ := mem_countSymbols.1 hp
  exact ⟨hlt, Nat.one_le_iff_ne_zero.2 hne⟩

theorem countSymbols_ne_nil {syms : List Byte} (h : syms ≠ []) : countSymbols syms ≠ [] := by
  intro he
  have hsum := sum_countSymbols syms
  rw [he] at hsum
  exact h (List.length_eq_zero_iff.1 hsum.symm)

/-- The symbols the builder reads are none only when `SYMLEN` is 0. -/
theorem State.symbols_ne_nil (h : s.symlen ≠ 0) : s.symbols ≠ [] := by
  intro he
  have hl : s.symlen.toNat = 0 := by
    rw [← s.symRange_length 0 s.symlen.toNat]; exact congrArg List.length he
  exact h (BitVec.eq_of_toNat_eq hl)

theorem State.symbols_length (s : State) : s.symbols.length = s.symlen.toNat := s.symRange_length _ _

theorem huffTreeBody_sound (h : DataInv s) : s.huffTreeBody.Sound := by
  obtain ⟨-, he⟩ | ⟨hne, freq, hf, he⟩ := s.huffTreeBody_cases <;> rw [he]
  · exact ⟨h.set_huffman s.clearHuffman_inv, by decide, fun hg => absurd rfl hg⟩
  · change freq = countSymbols s.symbols at hf
    have hlen : 1 ≤ freq.length := by
      rw [hf]; exact List.length_pos_iff.2 (countSymbols_ne_nil (State.symbols_ne_nil hne))
    refine h.set_huffman ?_
    constructor
    case noTree => nofun
    case counts => rw [hf]; exact countSymbols_counts (by rw [s.symbols_length]; exact s.symlen.isLt)
    case tree => exact fun _ => ⟨hlen, rfl, rfl, rfl, rfl, beq_iff_eq⟩
    case noTable => exact fun _ => rfl
    case table => nofun

/-- The tree of one count is its leaf (R205). -/
theorem buildTree_single (k c : Nat) : buildTree [(k, c)] = ([.leaf (BitVec.ofNat 8 k) c], 0) := rfl

/-- Bits 7:0 of a leaf's info word are its symbol (R49). -/
theorem HNode.leaf_info_sym (sym : Byte) (w : Nat) : (HNode.leaf sym w).info.toNat % 256 = sym.toNat := by
  have h : (0x80000000#32 ||| zext sym).setWidth 8 = sym := by unfold zext; ext i; simp
  have hn := congrArg BitVec.toNat h
  rwa [BitVec.toNat_setWidth] at hn

/-- A tree with `DEGEN` is the one leaf, at root 0 (R46, R205). -/
theorem HuffmanInv.degenerate (h : HuffmanInv s) (ht : s.treeV = true) (hd : s.degen = true) :
    ∃ sym w, s.node = [.leaf sym w] ∧ s.hroot = 0 := by
  obtain ⟨-, -, -, hnode, hroot, hdegen⟩ := h.tree ht
  obtain ⟨⟨k, c⟩, hf⟩ := List.length_eq_one_iff.1 (hdegen.1 hd)
  rw [hf, buildTree_single] at hnode hroot
  exact ⟨_, _, hnode, hroot⟩

theorem huffTableBody_sound (h : DataInv s) : s.huffTableBody.Sound := by
  obtain ⟨hnoTree, hcounts, htree, -, -⟩ := h.huffman
  obtain ⟨-, he⟩ | ⟨ht, hd, -, he⟩ | ⟨ht, hd, -, he⟩ | ⟨ht, hd, he⟩ := s.huffTableBody_cases <;> rw [he]
  · exact ⟨h, by decide, fun hg => absurd rfl hg⟩
  · exact ⟨h.set_huffman ⟨hnoTree, hcounts, htree, fun _ => rfl, nofun⟩, by decide, fun hg => absurd rfl hg⟩
  · refine h.set_huffman ⟨hnoTree, hcounts, htree, nofun, fun _ => ⟨ht, fun hd' => ?_, fun _ => ?_⟩⟩
    · exact absurd (hd'.symm.trans hd) (by decide)
    · obtain ⟨sym, w, hnode, hroot⟩ := h.huffman.degenerate ht hd
      have hword : (s.nodeWord (2 * s.hroot.toNat + 1)).toNat % 256 = sym.toNat := by
        rw [hroot]; unfold State.nodeWord; rw [hnode]; exact HNode.leaf_info_sym sym w
      exact ⟨sym, w, hnode, by rw [hword]⟩
  · refine h.set_huffman ⟨hnoTree, hcounts, htree, nofun, fun _ => ⟨ht, fun _ => rfl, fun hd' => ?_⟩⟩
    exact absurd (hd'.symm.trans hd) (by decide)

/-! ### The commands -/

/-- A range command keeps the invariant when what it does with the bytes does. -/
theorem overRange_inv {f : List Byte → State} (h : DataInv s) (hf : ∀ bytes, DataInv (f bytes))
    (ht : s.overRange f = .next t) : t.Inv := by
  obtain ⟨-, he⟩ | ⟨-, he⟩ := s.overRange_cases f <;> rw [he] at ht <;> cases ht
  · exact (hf _).finish
  · exact h.raise (by decide) (fun hg => absurd rfl hg) _

theorem DataInv.set_crc (h : DataInv s) (c : Word) : DataInv { s with crcState := c } :=
  h.set_free c s.poff s.pcons s.errinfo s.status

theorem adlerPair_lt (h : DataInv s) : s.adlerPair.1 < 65521 ∧ s.adlerPair.2 < 65521 :=
  ⟨h.registers.adlerA, h.registers.adlerB⟩

/-- The packing of two sums as a number (R141). -/
theorem adlerPack_toNat {a b : Nat} (ha : a < 65536) (hb : b < 65536) :
    (adlerPack (low32 a) (low32 b)).toNat = b * 65536 + a := by
  have hshift : (low32 b <<< 16).toNat = b <<< 16 := by
    rw [BitVec.toNat_shiftLeft, low32_toNat (by omega), Nat.shiftLeft_eq]
    exact Nat.mod_eq_of_lt (by omega)
  rw [adlerPack, BitVec.toNat_or, hshift, low32_toNat (by omega), ← Nat.shiftLeft_add_eq_or_of_lt ha, Nat.shiftLeft_eq]

/-- Bits 15:0 and 31:16 of a packed pair of sums are the sums (R141). -/
theorem adlerPack_halves {a b : Nat} (ha : a < 65536) (hb : b < 65536) :
    adlerPack (low32 a) (low32 b) &&& 0xFFFF = low32 a ∧ adlerPack (low32 a) (low32 b) >>> 16 = low32 b := by
  constructor <;> apply BitVec.eq_of_toNat_eq
  · rw [BitVec.toNat_and, adlerPack_toNat ha hb, low32_toNat (by omega)]
    exact (Nat.and_two_pow_sub_one_eq_mod _ 16).trans (by omega)
  · rw [BitVec.toNat_ushiftRight, adlerPack_toNat ha hb, low32_toNat (by omega), Nat.shiftRight_eq_div_pow]
    omega

/-- `ADLER32` leaves the very sums of the fold (R147). -/
theorem adler32_halves (bytes : List Byte) :
    adler32 bytes &&& 0xFFFF = low32 (adlerFold (1, 0) bytes).1 ∧
      adler32 bytes >>> 16 = low32 (adlerFold (1, 0) bytes).2 := by
  obtain ⟨ha, hb⟩ := adlerFold_lt (p := (1, 0)) (by decide) (by decide) bytes
  exact adlerPack_halves (by omega) (by omega)

/-! The four range commands by what they do with the bytes (R125, R126, R146, R147). -/

theorem exec_crcBuf (s : State) :
    exec .crcBuf s = s.overRange fun bytes => { s with crcState := crcFold s.crcState bytes } := rfl

theorem exec_crc32 (s : State) :
    exec .crc32 s = s.overRange fun bytes => { s with crcState := crc32 bytes ^^^ crcXorOut } := rfl

theorem exec_adlerBuf (s : State) :
    exec .adlerBuf s = s.overRange fun bytes => s.setAdler (adlerFold s.adlerPair bytes) := rfl

theorem exec_adler32 (s : State) :
    exec .adler32 s = s.overRange fun bytes => s.setAdler (adlerFold (1, 0) bytes) := by
  change execAdler32 s = _
  unfold execAdler32 State.setAdler
  simp only [adler32_halves]

/-- Every command keeps the invariant. -/
theorem exec_inv {i : Instr} (h : DataInv s) (ht : exec i s = .next t) : t.Inv := by
  cases i with
  | nop => cases ht; exact h.finish
  | clrErr =>
    cases ht
    exact (h.set_free _ _ _ 0 _).inv ⟨fun e => absurd rfl e, fun _ => ⟨rfl, rfl⟩, fun e => absurd rfl e⟩
  | crcInit => cases ht; exact (h.set_crc _).finish
  | crcByte imm8 => cases ht; exact (h.set_crc _).finish
  | crcBuf => rw [exec_crcBuf] at ht; exact overRange_inv h (fun _ => h.set_crc _) ht
  | crc32 => rw [exec_crc32] at ht; exact overRange_inv h (fun _ => h.set_crc _) ht
  | adlerInit => cases ht; exact (h.setAdler (by decide)).finish
  | adlerByte imm8 => cases ht; exact (h.setAdler (adlerStep_lt _ _)).finish
  | adlerBuf =>
    rw [exec_adlerBuf] at ht
    obtain ⟨ha, hb⟩ := adlerPair_lt h
    exact overRange_inv h (fun bytes => h.setAdler (adlerFold_lt ha hb bytes)) ht
  | adler32 =>
    rw [exec_adler32] at ht
    exact overRange_inv h (fun bytes => h.setAdler (adlerFold_lt (by decide) (by decide) bytes)) ht
  | parseSig => exact (sigBody_sound h).close ht
  | parseIhdr => exact (ihdrBody_sound h).close ht
  | parseIdat => exact (idatBody_sound h).close ht
  | parseIend => exact (iendBody_sound h).close ht
  | decode => exact (decodeBody_sound h).close ht
  | huffTree => exact (huffTreeBody_sound h).close ht
  | huffTable => exact (huffTableBody_sound h).close ht
  | huffAll => exact ((huffTreeBody_sound h).andThen fun _ hu => huffTableBody_sound hu).close ht

/-! ### The other accesses -/

/-- A length written by the host is at most the capacity (R29, R30). -/
theorem low32_min_le {v : Word} {cap : Nat} : (low32 (min v.toNat cap)).toNat ≤ cap := by
  rw [low32_toNat_le (w := v) (Nat.min_le_left _ _)]
  exact Nat.min_le_right _ _

theorem and_three_lt (v : Word) : (v &&& 3).toNat < 4 := by
  rw [BitVec.toNat_and]
  exact Nat.lt_succ_of_le Nat.and_le_right

theorem DataInv.set_cfg (h : DataInv s) {c : Word} (hc : c.toNat < 4) : DataInv { s with cfg := c } where
  capacity := ⟨h.capacity.bufCap, h.capacity.symCap, h.capacity.buflen, h.capacity.symlen⟩
  registers := ⟨h.registers.adlerA, h.registers.adlerB, hc⟩
  records := h.records.congr ⟨rfl, rfl, rfl⟩ ⟨rfl, rfl, rfl, rfl, rfl⟩
  huffman := h.huffman.congr ⟨rfl, rfl, rfl, rfl, rfl, rfl, rfl⟩ ⟨rfl, rfl⟩
  memory := h.memory.congr ⟨rfl, rfl, rfl, rfl, rfl⟩ rfl rfl

/-- A new `BUFLEN` or a new BUF clears the records (R286), so nothing is asked of them. -/
theorem DataInv.set_buffer (h : DataInv s) {n : Word} {m : Memory} (hn : n.toNat ≤ s.bufCap)
    (hm : Memory.wf m = true ∧ ∀ c ∈ m, c.1 < s.bufCap) : DataInv { s.clearRecords with buflen := n, buf := m } where
  capacity := ⟨h.capacity.bufCap, h.capacity.symCap, hn, h.capacity.symlen⟩
  registers := h.registers.congr ⟨rfl, rfl⟩ rfl
  records := .of_cleared rfl rfl rfl rfl rfl
  huffman := h.huffman.congr ⟨rfl, rfl, rfl, rfl, rfl, rfl, rfl⟩ ⟨rfl, rfl⟩
  memory := ⟨hm, h.memory.sym⟩

theorem DataInv.set_symbols (h : DataInv s) {n : Word} {m : Memory} (hn : n.toNat ≤ s.symCap)
    (hm : Memory.wf m = true ∧ ∀ c ∈ m, c.1 < s.symCap) : DataInv { s with symlen := n, sym := m } where
  capacity := ⟨h.capacity.bufCap, h.capacity.symCap, h.capacity.buflen, hn⟩
  registers := h.registers.congr ⟨rfl, rfl⟩ rfl
  records := h.records.congr ⟨rfl, rfl, rfl⟩ ⟨rfl, rfl, rfl, rfl, rfl⟩
  huffman := h.huffman.congr ⟨rfl, rfl, rfl, rfl, rfl, rfl, rfl⟩ ⟨rfl, rfl⟩
  memory := ⟨h.memory.buf, hm⟩

theorem regStore_data (h : DataInv s) (r : Reg) (v : Word) : DataInv (s.regStore r v) := by
  obtain he | ⟨-, he⟩ | ⟨-, he⟩ | ⟨-, he⟩ | ⟨-, he⟩ | ⟨-, he⟩ | ⟨-, he⟩ := regStore_cases s r v <;> rw [he]
  · exact h
  · exact h.set_cfg (and_three_lt v)
  · exact h.set_host _ _ v _
  · exact h.set_host _ _ _ v
  · exact h.set_buffer low32_min_le h.memory.buf
  · exact h.set_symbols low32_min_le h.memory.sym
  · exact h.set_free _ v _ _ _

/-- A store at an index of the port keeps the canonical form and the bound (R70). -/
theorem put_memory {m : Memory} {cap i : Nat} (hm : Memory.wf m = true ∧ ∀ c ∈ m, c.1 < cap) (hi : i < cap) (b : Byte) :
    Memory.wf (Table.put m i b) = true ∧ ∀ c ∈ Table.put m i b, c.1 < cap := by
  refine ⟨Table.wf_put i b hm.1, fun c hc => ?_⟩
  rcases Table.mem_put hc with rfl | hc
  · exact hi
  · exact hm.2 c hc

/-- A block with capacities within R9 meets the invariant after reset (R53), whatever the host has recorded. -/
theorem resetOf_inv {b c : Nat} (hb : 1 ≤ b ∧ b ≤ 2 ^ 32 - 1) (hc : 1 ≤ c ∧ c ≤ 2 ^ 32 - 1) (script : List HostOp)
    (reads : List Word) (resets : Nat) :
    { State.resetOf b c with script := script, reads := reads, resets := resets }.Inv where
  capacity := ⟨hb, hc, Nat.zero_le _, Nat.zero_le _⟩
  registers := ⟨Nat.one_lt_succ_succ 65519, Nat.zero_lt_succ 65520, Nat.zero_lt_succ 3⟩
  status := ⟨fun e => absurd rfl e, fun _ => ⟨rfl, rfl⟩, fun e => absurd rfl e⟩
  records := .of_cleared rfl rfl rfl rfl rfl
  huffman := (State.clearHuffman_inv (State.resetOf b c)).congr ⟨rfl, rfl, rfl, rfl, rfl, rfl, rfl⟩ ⟨rfl, rfl⟩
  memory := ⟨⟨rfl, nofun⟩, rfl, nofun⟩

/-- An illegal word raises an error without a stage (R255). -/
theorem runCommand_inv {w : Word} (h : DataInv s) (ht : runCommand w s = .next t) : t.Inv := by
  obtain ⟨i, -, hi⟩ | ⟨why, -, rfl⟩ := runCommand_cases ht
  · exact exec_inv h hi
  · exact h.raise (by decide) (fun hg => absurd rfl hg) w

theorem StatusInv.congr (h : StatusInv s) (hs : t.status = s.status) (he : t.errinfo = s.errinfo) : StatusInv t :=
  ⟨by rw [hs]; exact h.sticky, by rw [hs, he]; exact h.clean, by rw [hs]; exact h.staged⟩

theorem regStore_status (s : State) (r : Reg) (v : Word) :
    (s.regStore r v).status = s.status ∧ (s.regStore r v).errinfo = s.errinfo := by
  cases r <;> exact ⟨rfl, rfl⟩

/-- Every access that has a next state keeps the invariant. -/
theorem hostAccess_inv {op : HostOp} (h : s.Inv) (ht : hostAccess op s = .next t) : t.Inv := by
  obtain ⟨-, v, rfl⟩ | ⟨off, r, v, -, -, -, rfl⟩ | ⟨w, -, hw⟩ | ⟨i, b, -, hi, rfl⟩ | ⟨i, b, -, hi, rfl⟩ | ⟨-, rfl⟩ :=
    hostAccess_cases ht
  · exact (h.data.set_host _ (s.reads ++ [v]) _ _).inv (h.status.congr rfl rfl)
  · obtain ⟨hs, he⟩ := regStore_status s r v
    exact (regStore_data h.data r v).inv (h.status.congr hs he)
  · exact runCommand_inv h.data hw
  · exact (h.data.set_buffer h.capacity.buflen (put_memory h.memory.buf hi b)).inv (h.status.congr rfl rfl)
  · exact (h.data.set_symbols h.capacity.symlen (put_memory h.memory.sym hi b)).inv (h.status.congr rfl rfl)
  · exact resetOf_inv h.capacity.bufCap h.capacity.symCap _ _ _

/-- The capacities of an implementation lie within R9. -/
theorem config_cap_bounds (n : Fin 4294967295) : 1 ≤ n.val + 1 ∧ n.val + 1 ≤ 2 ^ 32 - 1 := by omega

end Sys2Proof.Machine

open Sys2Proof Sys2Proof.Machine

/-- Settles O60, over the accesses of the script: each keeps the invariant, and taking one from the script changes no
part the invariant speaks of. -/
theorem stepKeepsInv : Obligations.StepKeepsInv := by
  intro s t h ht
  obtain ⟨-, rfl⟩ | ⟨op, rest, -, hop⟩ := step_cases ht
  · exact h
  · exact hostAccess_inv ((h.data.set_host rest _ _ _).inv (h.status.congr rfl rfl)) hop

/-- Settles O59, for every choice of the two capacities R9 leaves open. -/
theorem invHoldsAtReset : Obligations.InvHoldsAtReset :=
  resetOf_inv (config_cap_bounds _) (config_cap_bounds _) [] [] 0

end

section
/-! Decoding and encoding against each other (R101, R102), and the accesses by what they answer: `CMD` writes, the
accesses outside their port, the writes that are ignored, and reset. O4, O49, O52, O54. -/

namespace Sys2Proof.Machine

variable {s t : State}

/-! ### Encoding and decoding -/

/-- The decoder reads back every command from its word. -/
theorem decodeWord_encode (i : Instr) : decodeWord (encode i) = .legal i := by
  cases i
  case crcByte b => revert b; decide
  case adlerByte b => revert b; decide
  all_goals decide

/-- The opcode map, read backwards: the opcode is the command's match, and the immediate is kept where it is taken. -/
theorem ofOpcode_some {op imm : Byte} {i : Instr} (h : ofOpcode op imm = some i) :
    op.toNat = (matchOf i).toNat ∧ immOf i = if takesImm i then imm else 0 := by
  unfold ofOpcode at h
  split at h <;> cases h
  all_goals next hop => exact ⟨hop, rfl⟩

/-- A word without reserved bits is its opcode with the immediate above it (R100). -/
theorem word_of_fields {w : Word} (h : rsvField w = 0) : w.toNat = (opField w).toNat + 256 * (immField w).toNat := by
  have hrsv : w.toNat / 2 ^ 16 % 2 ^ 16 = 0 := by
    rw [← Nat.shiftRight_eq_div_pow, ← BitVec.extractLsb'_toNat]; exact congrArg BitVec.toNat h
  have hlt := w.isLt
  rw [opField, immField, BitVec.extractLsb'_toNat, BitVec.extractLsb'_toNat, Nat.shiftRight_zero,
    Nat.shiftRight_eq_div_pow]
  omega

/-- The encoder as a number: the match, with the immediate in bits 15:8 (R107). -/
theorem encode_toNat (i : Instr) : (encode i).toNat = (matchOf i).toNat + 256 * (immOf i).toNat := by
  cases i
  case crcByte b => revert b; decide
  case adlerByte b => revert b; decide
  all_goals rfl

/-- A word that decodes to a command is the word of that command. -/
theorem encode_of_decodeWord {w : Word} {i : Instr} (h : decodeWord w = .legal i) : w = encode i := by
  unfold decodeWord at h
  split at h
  · cases h
  next hrsv =>
    split at h
    · cases h
    next j hj =>
      split at h <;> cases h
      next himm =>
        obtain ⟨hop, himmOf⟩ := ofOpcode_some hj
        have himm : immOf i = immField w := by
          rw [himmOf]
          split
          · rfl
          · next hn => exact (himm.resolve_left hn).symm
        apply BitVec.eq_of_toNat_eq
        rw [word_of_fields (not_not.1 hrsv), encode_toNat, hop, himm]

/-! ### A write of `CMD` -/

theorem runCommand_legal {w : Word} {i : Instr} (h : decodeWord w = .legal i) (s : State) :
    runCommand w s = exec i s := by
  unfold runCommand; rw [h]

theorem hostAccess_cmd (i : Instr) (s : State) : hostAccess (Script.cmd i) s = exec i s :=
  runCommand_legal (decodeWord_encode i) s

/-! ### Which accesses have a step -/

theorem overRange_next (s : State) (f : List Byte → State) : ∃ t, s.overRange f = .next t := by
  obtain ⟨-, h⟩ | ⟨-, h⟩ := s.overRange_cases f <;> exact ⟨_, h⟩

/-- Every command ends with a next state (R290). -/
theorem exec_next (i : Instr) (s : State) : ∃ t, exec i s = .next t := by
  cases i with
  | nop | clrErr | crcInit | crcByte | adlerInit | adlerByte => exact ⟨_, rfl⟩
  | crcBuf => rw [exec_crcBuf]; exact overRange_next s _
  | crc32 => rw [exec_crc32]; exact overRange_next s _
  | adlerBuf => rw [exec_adlerBuf]; exact overRange_next s _
  | adler32 => rw [exec_adler32]; exact overRange_next s _
  | parseSig | parseIhdr | parseIdat | parseIend | decode | huffTree | huffTable | huffAll => exact Body.close_next _

theorem runCommand_next (w : Word) (s : State) : ∃ t, runCommand w s = .next t := by
  cases h : decodeWord w with
  | legal i => rw [runCommand_legal h]; exact exec_next i s
  | illegal why => exact ⟨s.illegalCommand w, by unfold runCommand; rw [h]⟩

theorem regOfOffset_inside {off : Nat} (h : off % 4 = 0 ∧ off ≤ 0xFC) : regOfOffset off = some (regAt (off / 4)) :=
  if_pos h

theorem regOfOffset_outside {off : Nat} (h : ¬ (off % 4 = 0 ∧ off ≤ 0xFC)) : regOfOffset off = none := if_neg h

theorem regWrite_next (r : Reg) (v : Word) (s : State) : ∃ t, regWrite r v s = .next t := by
  unfold regWrite
  split
  · exact runCommand_next v s
  · exact ⟨_, rfl⟩

theorem hostAccess_regRead {off : Nat} {r : Reg} (h : regOfOffset off = some r) (s : State) :
    hostAccess (.regRead off) s = .next (s.logRead (s.regValue r)) := by simp only [hostAccess, h]

theorem hostAccess_regWrite {off : Nat} {r : Reg} (h : regOfOffset off = some r) (v : Word) (s : State) :
    hostAccess (.regWrite off v) s = regWrite r v s := by simp only [hostAccess, h]

/-- A write of a register other than `CMD` stores it (R22). -/
theorem hostAccess_store {off : Nat} {r : Reg} (h : regOfOffset off = some r) (hr : r ≠ .cmd) (v : Word) (s : State) :
    hostAccess (.regWrite off v) s = .next (s.regStore r v) := by
  rw [hostAccess_regWrite h, regWrite, if_neg hr]

/-- Inside its port an access has a next state. -/
theorem hostAccess_next_of_inPort {op : HostOp} (h : inPort s op) : ∃ t, hostAccess op s = .next t := by
  cases op with
  | regRead off => exact ⟨_, hostAccess_regRead (regOfOffset_inside h) s⟩
  | regWrite off v => rw [hostAccess_regWrite (regOfOffset_inside h)]; exact regWrite_next _ v s
  | bufRead | bufWrite | symRead | symWrite | freqRead | nodeRead | codeRead => exact ⟨_, if_pos h⟩
  | reset => exact ⟨_, rfl⟩

/-- Outside its port an access is refused. -/
theorem hostAccess_refused_of_not_inPort {op : HostOp} (h : ¬ inPort s op) : ∃ r, hostAccess op s = .refused r := by
  cases op with
  | regRead off | regWrite off v => exact ⟨.regOffset off, by simp only [hostAccess, regOfOffset_outside h]⟩
  | bufRead | bufWrite | symRead | symWrite | freqRead | nodeRead | codeRead => exact ⟨_, if_neg h⟩
  | reset => exact absurd trivial h

/-! ### The registers that take a write -/

/-- The offsets of the seven registers that take a write (R22). -/
theorem written_offset {off : Nat} {r : Reg} (h : regOfOffset off = some r) :
    (r = .cmd → off = 0x00) ∧ (r = .cfg → off = 0x08) ∧ (r = .arg0 → off = 0x0C) ∧ (r = .arg1 → off = 0x10) ∧
    (r = .buflen → off = 0x14) ∧ (r = .symlen → off = 0x18) ∧ (r = .poff → off = 0x40) := by
  obtain ⟨hdvd, -, hr⟩ := regOfOffset_some h
  obtain ⟨hcmd, hcfg, harg0, harg1, hbuflen, hsymlen, hpoff⟩ := regAt_written hr.symm
  exact ⟨fun e => by have := hcmd e; omega, fun e => by have := hcfg e; omega, fun e => by have := harg0 e; omega,
    fun e => by have := harg1 e; omega, fun e => by have := hbuflen e; omega, fun e => by have := hsymlen e; omega,
    fun e => by have := hpoff e; omega⟩

/-! ### Cleared state reads 0 -/

/-! The record registers read 0 where the record is `none` (R41 to R45). -/

theorem sigViews_of_none (h : t.sig = none) {n : Nat} (h1 : 0x13 ≤ n) (h2 : n ≤ 0x14) :
    t.regValue (regAt n) = 0 := by
  interval_cases n <;> simp [regAt, State.regValue, h]

theorem ihdrViews_of_none (h : t.ihdr = none) {n : Nat} (h1 : 0x15 ≤ n) (h2 : n ≤ 0x20) :
    t.regValue (regAt n) = 0 := by
  interval_cases n <;> simp [regAt, State.regValue, State.ofIhdr, h]

theorem idatViews_of_none (h : t.idat = none) {n : Nat} (h1 : 0x21 ≤ n) (h2 : n ≤ 0x27) :
    t.regValue (regAt n) = 0 := by
  interval_cases n <;> simp [regAt, State.regValue, State.ofIdat, h]

theorem iendViews_of_none (h : t.iend = none) {n : Nat} (h1 : 0x28 ≤ n) (h2 : n ≤ 0x2C) :
    t.regValue (regAt n) = 0 := by
  interval_cases n <;> simp [regAt, State.regValue, State.ofIend, h]

/-- Without records `PSTAT` and every record register read 0 (R45). -/
theorem RecordsCleared.of_none (hsig : t.sig = none) (hihdr : t.ihdr = none) (hidat : t.idat = none)
    (hiend : t.iend = none) (hdec : t.decV = false) : RecordsCleared t := by
  have hpstat : t.pstat = 0 := by
    unfold State.pstat; rw [hsig, hihdr, hidat, hiend, hdec]; rfl
  refine ⟨hsig, hihdr, hidat, hiend, hdec, hpstat, fun n h1 h2 => ?_⟩
  rcases Nat.lt_or_ge 0x14 n with h | h
  case inr => exact sigViews_of_none hsig h1 h
  rcases Nat.lt_or_ge 0x20 n with h' | h'
  case inr => exact ihdrViews_of_none hihdr h h'
  rcases Nat.lt_or_ge 0x27 n with h'' | h''
  · exact iendViews_of_none hiend h'' h2
  · exact idatViews_of_none hidat h' h''

theorem statusWord_of_cleared (h : s.status = ⟨.ok, .none, false⟩) : s.statusWord = 0 := by
  unfold State.statusWord; rw [h]; rfl

theorem hstat_of_cleared (ht : s.treeV = false) (hc : s.tableV = false) (hd : s.degen = false) : s.hstat = 0 := by
  unfold State.hstat; rw [ht, hc, hd]; rfl

theorem freqWord_of_nil (h : s.freq = []) (k : Nat) : s.freqWord k = 0 := by unfold State.freqWord; rw [h]; rfl

theorem nodeWord_of_nil (h : s.node = []) (k : Nat) : s.nodeWord k = 0 := by unfold State.nodeWord; rw [h]; rfl

theorem codeWord_of_nil (h : s.code = []) (k : Nat) : s.codeWord k = 0 := by unfold State.codeWord; rw [h]; rfl

end Sys2Proof.Machine

open Sys2Proof Sys2Proof.Machine

/-- Settles O4, by the decoder reading back every encoded command. -/
theorem stepRunsDecodedCommand : Obligations.StepRunsDecodedCommand := by
  refine ⟨fun s op rest h => step_cons h, fun s w i h => runCommand_legal h s, fun s i => ?_, fun s h => ?_⟩
  · have hword : BitVec.ofNat 32 ((encode i).toNat % 2 ^ 32) = encode i := by
      rw [Nat.mod_eq_of_lt (encode i).isLt, BitVec.ofNat_toNat, BitVec.setWidth_eq]
    unfold State.withFetchWord
    rw [hword]
    exact hostAccess_cmd i s
  · unfold step stepScript; rw [h]

/-- Settles O49, port by port. -/
theorem accessOutsidePortRefused : Obligations.AccessOutsidePortRefused :=
  fun _ _ => ⟨hostAccess_next_of_inPort, hostAccess_refused_of_not_inPort⟩

/-- Settles O52: a store that changes something is at one of the seven offsets. -/
theorem readOnlyWritesIgnored : Obligations.ReadOnlyWritesIgnored := by
  intro s off v hdvd hle hoff
  have hreg := regOfOffset_inside ⟨hdvd, hle⟩
  generalize regAt (off / 4) = r at hreg
  obtain ⟨hcmd, hcfg, harg0, harg1, hbuflen, hsymlen, hpoff⟩ := written_offset hreg
  simp only [List.mem_cons, List.not_mem_nil, or_false, not_or] at hoff
  obtain ⟨ncmd, ncfg, narg0, narg1, nbuflen, nsymlen, npoff⟩ := hoff
  rw [hostAccess_store hreg fun e => ncmd (hcmd e)]
  obtain h | ⟨e, -⟩ | ⟨e, -⟩ | ⟨e, -⟩ | ⟨e, -⟩ | ⟨e, -⟩ | ⟨e, -⟩ := regStore_cases s r v
  · rw [h]
  · exact absurd (hcfg e) ncfg
  · exact absurd (harg0 e) narg0
  · exact absurd (harg1 e) narg1
  · exact absurd (hbuflen e) nbuflen
  · exact absurd (hsymlen e) nsymlen
  · exact absurd (hpoff e) npoff

/-- Settles O54, row by row of the table of R53. -/
theorem resetLeavesTheTable : Obligations.ResetLeavesTheTable := by
  intro s
  have hadler : s.applyReset.regValue .adlerValue = 1 := show adlerPack 1 0 = 1 by decide
  exact ⟨s.applyReset, rfl, statusWord_of_cleared rfl, rfl, rfl, rfl, rfl, rfl, rfl, rfl, BitVec.xor_self, rfl, rfl,
    hadler, rfl, rfl, .of_none rfl rfl rfl rfl rfl, rfl, rfl, rfl, hstat_of_cleared rfl rfl rfl, rfl, rfl, rfl,
    freqWord_of_nil rfl, nodeWord_of_nil rfl, codeWord_of_nil rfl⟩

end

section
/-! What each command can write, said once, and from it the writers of every part of the state (O56). -/

namespace Sys2Proof.Machine

variable {s t u v : State}

/-! ### The parts a command can write -/

/-- Only the parser's part differs (R178). -/
def ParserUpdate (s u : State) : Prop :=
  ∃ sig ihdr idat iend decV poff pcons, u = { s with
    sig := sig, ihdr := ihdr, idat := idat, iend := iend, decV := decV, poff := poff, pcons := pcons }

/-- Only the tree and the table differ (R217). -/
def HuffmanUpdate (s u : State) : Prop :=
  ∃ treeV tableV degen hnsym hroot hnnode freq node code, u = { s with
    treeV := treeV, tableV := tableV, degen := degen, hnsym := hnsym, hroot := hroot, hnnode := hnnode
    freq := freq, node := node, code := code }

/-- What a command may write before its final status write, by its unit (R130, R150, R178, R217). -/
def Touches : Instr → State → State → Prop
  | .nop, s, u | .clrErr, s, u => u = s
  | .crcInit, s, u | .crcByte _, s, u | .crcBuf, s, u | .crc32, s, u => ∃ c, u = { s with crcState := c }
  | .adlerInit, s, u | .adlerByte _, s, u | .adlerBuf, s, u | .adler32, s, u =>
    ∃ a b, u = { s with adlerA := a, adlerB := b }
  | .parseSig, s, u | .parseIhdr, s, u | .parseIdat, s, u | .parseIend, s, u | .decode, s, u => ParserUpdate s u
  | .huffTable, s, u => ∃ code tableV, u = { s with code := code, tableV := tableV }
  | .huffTree, s, u | .huffAll, s, u => HuffmanUpdate s u

/-- The two ends of a command that has left `u` (R253, R254). -/
def Ends (u t : State) : Prop := t = u.finish ∨ ∃ e g i, e ≠ .ok ∧ t = u.raise e g i

theorem ParserUpdate.trans (h : ParserUpdate s u) (h' : ParserUpdate u v) : ParserUpdate s v := by
  obtain ⟨_, _, _, _, _, _, _, rfl⟩ := h
  obtain ⟨_, _, _, _, _, _, _, rfl⟩ := h'
  exact ⟨_, _, _, _, _, _, _, rfl⟩

theorem HuffmanUpdate.trans (h : HuffmanUpdate s u) (h' : HuffmanUpdate u v) : HuffmanUpdate s v := by
  obtain ⟨_, _, _, _, _, _, _, _, _, rfl⟩ := h
  obtain ⟨_, _, _, _, _, _, _, _, _, rfl⟩ := h'
  exact ⟨_, _, _, _, _, _, _, _, _, rfl⟩

/-! ### What the bodies leave -/

/-- Whichever way the body ends, it leaves a state of which `P` holds, and it raises no error 0. -/
def Body.Leaves (P : State → Prop) : Body → Prop
  | .done u => P u
  | .raised u e _ _ => P u ∧ e ≠ .ok

theorem Body.Leaves.close {P : State → Prop} {b : Body} (hb : b.Leaves P) (h : b.close = .next t) :
    ∃ u, P u ∧ Ends u t := by
  obtain ⟨u, rfl, rfl⟩ | ⟨u, e, g, i, rfl, rfl⟩ := Body.close_cases h
  · exact ⟨u, hb, .inl rfl⟩
  · exact ⟨u, hb.1, .inr ⟨e, g, i, hb.2, rfl⟩⟩

theorem Body.Leaves.andThen {P : State → Prop} {b : Body} {f : State → Body} (hb : b.Leaves P)
    (hf : ∀ u, P u → (f u).Leaves P) : (b.andThen f).Leaves P := by
  cases b with
  | done u => exact hf u hb
  | raised u e g i => exact hb

theorem Body.Leaves.imp {P Q : State → Prop} {b : Body} (hb : b.Leaves P) (h : ∀ u, P u → Q u) : b.Leaves Q := by
  cases b with
  | done u => exact h u hb
  | raised u e g i => exact ⟨h u hb.1, hb.2⟩

theorem sigBody_leaves (s : State) : s.sigBody.Leaves (ParserUpdate s) := by
  obtain ⟨b, -, he⟩ | ⟨e, i, hb, he⟩ := s.sigBody_cases <;> rw [he]
  · exact ⟨_, _, _, _, _, _, _, rfl⟩
  · obtain ⟨-, rfl, -⟩ := State.readSig_err hb
    exact ⟨⟨_, _, _, _, _, _, _, rfl⟩, by decide⟩

theorem ihdrBody_leaves (s : State) : s.ihdrBody.Leaves (ParserUpdate s) := by
  obtain ⟨r, -, he⟩ | ⟨e, i, hr, he⟩ := s.ihdrBody_cases <;> rw [he]
  · exact ⟨_, _, _, _, _, _, _, rfl⟩
  · exact ⟨⟨_, _, _, _, _, _, _, rfl⟩, stagedErrors_ne_ok (readIhdr_err_staged hr)⟩

theorem idatBody_leaves (s : State) : s.idatBody.Leaves (ParserUpdate s) := by
  obtain ⟨r, -, he⟩ | ⟨e, i, hr, he⟩ := s.idatBody_cases <;> rw [he]
  · exact ⟨_, _, _, _, _, _, _, rfl⟩
  · exact ⟨⟨_, _, _, _, _, _, _, rfl⟩, stagedErrors_ne_ok (readIdat_err_staged hr)⟩

theorem iendBody_leaves (s : State) : s.iendBody.Leaves (ParserUpdate s) := by
  obtain ⟨r, -, he⟩ | ⟨e, i, hr, he⟩ := s.iendBody_cases <;> rw [he]
  · exact ⟨_, _, _, _, _, _, _, rfl⟩
  · exact ⟨⟨_, _, _, _, _, _, _, rfl⟩, stagedErrors_ne_ok (readIend_err_staged hr)⟩

theorem decodeStart_update (s : State) : ParserUpdate s s.decodeStart := ⟨_, _, _, _, _, _, _, rfl⟩

theorem decodeStages_leaves (s : State) : s.decodeStages.Leaves (ParserUpdate s) :=
  (sigBody_leaves s).andThen fun _ h1 => ((ihdrBody_leaves _).imp fun _ => h1.trans).andThen fun _ h2 =>
    ((idatBody_leaves _).imp fun _ => h2.trans).andThen fun _ h3 => (iendBody_leaves _).imp fun _ => h3.trans

theorem decodeBody_leaves (s : State) : s.decodeBody.Leaves (ParserUpdate s) := by
  have hs := (decodeStages_leaves s.decodeStart).imp fun _ => (decodeStart_update s).trans
  obtain ⟨u, hu, he⟩ | ⟨u, e, g, i, hu, he⟩ := s.decodeBody_cases <;> rw [he] <;> rw [hu] at hs
  · exact ParserUpdate.trans hs ⟨_, _, _, _, _, _, _, rfl⟩
  · exact ⟨hs.1.trans ⟨_, _, _, _, _, _, _, rfl⟩, hs.2⟩

theorem huffTreeBody_leaves (s : State) : s.huffTreeBody.Leaves (HuffmanUpdate s) := by
  obtain ⟨-, he⟩ | ⟨-, freq, -, he⟩ := s.huffTreeBody_cases <;> rw [he]
  · exact ⟨⟨_, _, _, _, _, _, _, _, _, rfl⟩, by decide⟩
  · exact ⟨_, _, _, _, _, _, _, _, _, rfl⟩

theorem huffTableBody_leaves (s : State) : s.huffTableBody.Leaves (Touches .huffTable s) := by
  obtain ⟨-, he⟩ | ⟨-, -, -, he⟩ | ⟨-, -, -, he⟩ | ⟨-, -, he⟩ := s.huffTableBody_cases <;> rw [he]
  · exact ⟨⟨s.code, s.tableV, rfl⟩, by decide⟩
  · exact ⟨⟨_, _, rfl⟩, by decide⟩
  · exact ⟨_, _, rfl⟩
  · exact ⟨_, _, rfl⟩

theorem Touches.huffman (h : Touches .huffTable s u) : HuffmanUpdate s u := by
  obtain ⟨_, _, rfl⟩ := h
  exact ⟨_, _, _, _, _, _, _, _, _, rfl⟩

/-! ### What a command can do -/

theorem overRange_leaves {P : State → Prop} {f : List Byte → State} (hs : P s) (hf : ∀ bytes, P (f bytes))
    (h : s.overRange f = .next t) : ∃ u, P u ∧ Ends u t := by
  obtain ⟨-, he⟩ | ⟨-, he⟩ := s.overRange_cases f <;> rw [he] at h <;> cases h
  · exact ⟨_, hf _, .inl rfl⟩
  · exact ⟨s, hs, .inr ⟨_, _, _, by decide, rfl⟩⟩

/-- Every command writes its unit's part, and then ends one of the two ways; `CLRERR` alone writes `STATUS`
otherwise. -/
theorem exec_cases {i : Instr} (h : exec i s = .next t) :
    (i = .clrErr ∧ t = { s with status := ⟨.ok, .none, false⟩, errinfo := 0 }) ∨
    (i ≠ .clrErr ∧ ∃ u, Touches i s u ∧ Ends u t) := by
  cases i with
  | clrErr => cases h; exact .inl ⟨rfl, rfl⟩
  | nop => cases h; exact .inr ⟨by decide, s, rfl, .inl rfl⟩
  | crcInit | crcByte => cases h; exact .inr ⟨nofun, _, ⟨_, rfl⟩, .inl rfl⟩
  | adlerInit | adlerByte => cases h; exact .inr ⟨nofun, _, ⟨_, _, rfl⟩, .inl rfl⟩
  | crcBuf =>
    rw [exec_crcBuf] at h
    exact .inr ⟨nofun, overRange_leaves ⟨s.crcState, rfl⟩ (fun _ => ⟨_, rfl⟩) h⟩
  | crc32 =>
    rw [exec_crc32] at h
    exact .inr ⟨nofun, overRange_leaves ⟨s.crcState, rfl⟩ (fun _ => ⟨_, rfl⟩) h⟩
  | adlerBuf =>
    rw [exec_adlerBuf] at h
    exact .inr ⟨nofun, overRange_leaves ⟨s.adlerA, s.adlerB, rfl⟩ (fun _ => ⟨_, _, rfl⟩) h⟩
  | adler32 =>
    rw [exec_adler32] at h
    exact .inr ⟨nofun, overRange_leaves ⟨s.adlerA, s.adlerB, rfl⟩ (fun _ => ⟨_, _, rfl⟩) h⟩
  | parseSig => exact .inr ⟨nofun, (sigBody_leaves s).close h⟩
  | parseIhdr => exact .inr ⟨nofun, (ihdrBody_leaves s).close h⟩
  | parseIdat => exact .inr ⟨nofun, (idatBody_leaves s).close h⟩
  | parseIend => exact .inr ⟨nofun, (iendBody_leaves s).close h⟩
  | decode => exact .inr ⟨nofun, (decodeBody_leaves s).close h⟩
  | huffTree => exact .inr ⟨nofun, (huffTreeBody_leaves s).close h⟩
  | huffTable => exact .inr ⟨nofun, (huffTableBody_leaves s).close h⟩
  | huffAll =>
    exact .inr ⟨nofun, ((huffTreeBody_leaves s).andThen fun u hu =>
      (huffTableBody_leaves u).imp fun _ hv => hu.trans hv.huffman).close h⟩

/-- An end writes `STATUS` and `ERRINFO` only. -/
theorem Ends.eq_update (h : Ends u t) : ∃ status errinfo, t = { u with status := status, errinfo := errinfo } := by
  obtain rfl | ⟨e, g, i, -, rfl⟩ := h <;> exact ⟨_, _, rfl⟩

theorem Ends.sticky (h : Ends u t) (hu : u.status.sticky = true) : t.status.sticky = true := by
  obtain rfl | ⟨e, g, i, -, rfl⟩ := h
  · exact hu
  · rfl

/-- Every command writes its unit's part, `STATUS` and `ERRINFO` only. -/
theorem exec_touches {i : Instr} (h : exec i s = .next t) :
    ∃ u status errinfo, Touches i s u ∧ t = { u with status := status, errinfo := errinfo } := by
  obtain ⟨rfl, rfl⟩ | ⟨-, u, hu, ht⟩ := exec_cases h
  · exact ⟨s, _, _, rfl, rfl⟩
  · obtain ⟨status, errinfo, rfl⟩ := ht.eq_update
    exact ⟨u, status, errinfo, hu, rfl⟩

end Sys2Proof.Machine
end

section
/-! The frames of the five units, and from them the writers of every part of the state: O56. -/

namespace Sys2Proof.Machine

variable {s t u : State}

/-! ### The frames -/

theorem SameInputs.of_eq (hr : SameRun s t) (ho : SameOperands s t) (hb : t.buf = s.buf) (hs : t.sym = s.sym) :
    SameInputs s t :=
  ⟨hr, ho, fun a => by unfold State.bufByte; rw [hb, hr.resets], fun a => by unfold State.symByte; rw [hs, hr.resets]⟩

theorem systemFrame_update (s : State) (status : Status) (errinfo : Word) :
    SystemFrame s { s with status := status, errinfo := errinfo } :=
  ⟨.of_eq ⟨rfl, rfl, rfl, rfl, rfl⟩ ⟨rfl, rfl, rfl, rfl, rfl⟩ rfl rfl, rfl, ⟨rfl, rfl⟩, ⟨rfl, rfl⟩,
    ⟨rfl, rfl, rfl, rfl, rfl⟩, ⟨rfl, rfl, rfl, rfl, rfl, rfl, rfl⟩, ⟨rfl, rfl⟩⟩

theorem crcFrame_update (s : State) (c : Word) (status : Status) (errinfo : Word) :
    CrcFrame s { s with crcState := c, status := status, errinfo := errinfo } :=
  ⟨.of_eq ⟨rfl, rfl, rfl, rfl, rfl⟩ ⟨rfl, rfl, rfl, rfl, rfl⟩ rfl rfl, ⟨rfl, rfl⟩, ⟨rfl, rfl⟩,
    ⟨rfl, rfl, rfl, rfl, rfl⟩, ⟨rfl, rfl, rfl, rfl, rfl, rfl, rfl⟩, ⟨rfl, rfl⟩⟩

theorem adlerFrame_update (s : State) (a b : Word) (status : Status) (errinfo : Word) :
    AdlerFrame s { s with adlerA := a, adlerB := b, status := status, errinfo := errinfo } :=
  ⟨.of_eq ⟨rfl, rfl, rfl, rfl, rfl⟩ ⟨rfl, rfl, rfl, rfl, rfl⟩ rfl rfl, rfl, ⟨rfl, rfl⟩, ⟨rfl, rfl, rfl, rfl, rfl⟩,
    ⟨rfl, rfl, rfl, rfl, rfl, rfl, rfl⟩, ⟨rfl, rfl⟩⟩

theorem ParserUpdate.frame (h : ParserUpdate s u) (status : Status) (errinfo : Word) :
    ParserFrame s { u with status := status, errinfo := errinfo } := by
  obtain ⟨_, _, _, _, _, _, _, rfl⟩ := h
  exact ⟨.of_eq ⟨rfl, rfl, rfl, rfl, rfl⟩ ⟨rfl, rfl, rfl, rfl, rfl⟩ rfl rfl, rfl, ⟨rfl, rfl⟩,
    ⟨rfl, rfl, rfl, rfl, rfl, rfl, rfl⟩, ⟨rfl, rfl⟩⟩

theorem HuffmanUpdate.frame (h : HuffmanUpdate s u) (status : Status) (errinfo : Word) :
    HuffmanFrame s { u with status := status, errinfo := errinfo } := by
  obtain ⟨_, _, _, _, _, _, _, _, _, rfl⟩ := h
  exact ⟨.of_eq ⟨rfl, rfl, rfl, rfl, rfl⟩ ⟨rfl, rfl, rfl, rfl, rfl⟩ rfl rfl, rfl, ⟨rfl, rfl⟩, ⟨rfl, rfl⟩,
    ⟨rfl, rfl, rfl, rfl, rfl⟩⟩

/-- The four CRC commands (R130). -/
def IsCrc (i : Instr) : Prop := i = .crcInit ∨ (∃ b, i = .crcByte b) ∨ i = .crcBuf ∨ i = .crc32

/-- The four Adler commands (R150). -/
def IsAdler (i : Instr) : Prop := i = .adlerInit ∨ (∃ b, i = .adlerByte b) ∨ i = .adlerBuf ∨ i = .adler32

/-- Every command keeps the frame of its unit, and `HUFF_TABLE` keeps the tree as well (R217). -/
theorem exec_frame {i : Instr} (h : exec i s = .next t) :
    SystemFrame s t ∨ (IsCrc i ∧ CrcFrame s t) ∨ (IsAdler i ∧ AdlerFrame s t) ∨
    (i ∈ parseCommands ∧ ParserFrame s t) ∨ (i = .huffTable ∧ HuffmanFrame s t ∧ SameTree s t) ∨
    ((i = .huffTree ∨ i = .huffAll) ∧ HuffmanFrame s t) := by
  obtain ⟨u, status, errinfo, hu, rfl⟩ := exec_touches h
  cases i with
  | nop | clrErr => obtain rfl : u = s := hu; exact .inl (systemFrame_update _ _ _)
  | crcInit | crcByte | crcBuf | crc32 =>
    obtain ⟨c, rfl⟩ := hu
    exact .inr (.inl ⟨by simp [IsCrc], crcFrame_update _ _ _ _⟩)
  | adlerInit | adlerByte | adlerBuf | adler32 =>
    obtain ⟨a, b, rfl⟩ := hu
    exact .inr (.inr (.inl ⟨by simp [IsAdler], adlerFrame_update _ _ _ _ _⟩))
  | parseSig | parseIhdr | parseIdat | parseIend | decode =>
    exact .inr (.inr (.inr (.inl ⟨by decide, ParserUpdate.frame hu _ _⟩)))
  | huffTable =>
    have hf := (Touches.huffman hu).frame status errinfo
    obtain ⟨c, v, rfl⟩ := hu
    exact .inr (.inr (.inr (.inr (.inl ⟨rfl, hf, rfl, rfl, rfl, rfl, rfl, rfl, rfl⟩))))
  | huffTree => exact .inr (.inr (.inr (.inr (.inr ⟨.inl rfl, HuffmanUpdate.frame hu _ _⟩))))
  | huffAll => exact .inr (.inr (.inr (.inr (.inr ⟨.inr rfl, HuffmanUpdate.frame hu _ _⟩))))

/-- No command writes what the host gives it (R75, R257). -/
theorem exec_inputs {i : Instr} (h : exec i s = .next t) : SameInputs s t := by
  obtain hf | ⟨-, hf⟩ | ⟨-, hf⟩ | ⟨-, hf⟩ | ⟨-, hf, -⟩ | ⟨-, hf⟩ := exec_frame h <;> exact hf.inputs

/-- `CLRERR` is the only command that clears `STICKY` (R241, R259). -/
theorem exec_sticky {i : Instr} (h : exec i s = .next t) (hs : s.status.sticky = true)
    (ht : t.status.sticky = false) : i = .clrErr := by
  obtain ⟨hi, -⟩ | ⟨-, u, hu, hend⟩ := exec_cases h
  · exact hi
  · have hsu : u.status = s.status := by
      cases i with
      | nop | clrErr => exact congrArg State.status hu
      | crcInit | crcByte | crcBuf | crc32 => obtain ⟨_, rfl⟩ := hu; rfl
      | adlerInit | adlerByte | adlerBuf | adler32 | huffTable => obtain ⟨_, _, rfl⟩ := hu; rfl
      | parseSig | parseIhdr | parseIdat | parseIend | decode => obtain ⟨_, _, _, _, _, _, _, rfl⟩ := hu; rfl
      | huffTree | huffAll => obtain ⟨_, _, _, _, _, _, _, _, _, rfl⟩ := hu; rfl
    rw [hend.sticky (by rw [hsu]; exact hs)] at ht
    cases ht

/-- A write of `CMD` with an illegal word writes `STATUS` and `ERRINFO` only, and sets `STICKY` (R255). -/
theorem illegalCommand_frame (s : State) (w : Word) : SystemFrame s (s.illegalCommand w) := systemFrame_update _ _ _

/-- A write of `CMD` is a command's or leaves all but the outcome. -/
theorem runCommand_frame {w : Word} (h : runCommand w s = .next t) :
    (∃ i, cmdWrite w = Script.cmd i ∧ exec i s = .next t) ∨ (SystemFrame s t ∧ t.status.sticky = true) := by
  obtain ⟨i, hw, hi⟩ | ⟨why, -, rfl⟩ := runCommand_cases h
  · exact .inl ⟨i, by rw [encode_of_decodeWord hw]; rfl, hi⟩
  · exact .inr ⟨illegalCommand_frame s w, rfl⟩

/-! ### The accesses that are no commands -/

/-- What only commands write (R25, R26, R34, R35, R37, R46, R51). -/
structure HostFrame (s t : State) : Prop where
  status : t.status = s.status
  errinfo : t.errinfo = s.errinfo
  crc : t.crcState = s.crcState
  adler : SameAdler s t
  pcons : t.pcons = s.pcons
  tree : SameTree s t
  table : SameTable s t
  bufCap : t.bufCap = s.bufCap
  symCap : t.symCap = s.symCap

theorem regStore_hostFrame (s : State) (r : Reg) (v : Word) : HostFrame s (s.regStore r v) := by
  obtain h | ⟨-, h⟩ | ⟨-, h⟩ | ⟨-, h⟩ | ⟨-, h⟩ | ⟨-, h⟩ | ⟨-, h⟩ := regStore_cases s r v <;> rw [h] <;>
    exact ⟨rfl, rfl, rfl, ⟨rfl, rfl⟩, rfl, ⟨rfl, rfl, rfl, rfl, rfl, rfl, rfl⟩, ⟨rfl, rfl⟩, rfl, rfl⟩

/-- Every access but reset is a command, or writes of what commands write the outcome at most. -/
theorem hostAccess_frame {op : HostOp} (h : hostAccess op s = .next t) (hr : op ≠ .reset) :
    HostFrame s t ∨ (∃ i, op = Script.cmd i ∧ exec i s = .next t) ∨
    (∃ w, op = cmdWrite w) ∧ SystemFrame s t ∧ t.status.sticky = true := by
  obtain ⟨-, v, rfl⟩ | ⟨off, r, v, -, -, -, rfl⟩ | ⟨w, rfl, hw⟩ | ⟨i, b, -, -, rfl⟩ | ⟨i, b, -, -, rfl⟩ | ⟨rfl, -⟩ :=
    hostAccess_cases h
  case inr.inl => exact .inl (regStore_hostFrame s r v)
  case inr.inr.inl =>
    obtain hc | hf := runCommand_frame hw
    · exact .inr (.inl hc)
    · exact .inr (.inr ⟨⟨w, rfl⟩, hf⟩)
  case inr.inr.inr.inr.inr => exact absurd rfl hr
  all_goals
    refine .inl ?_
    exact ⟨rfl, rfl, rfl, ⟨rfl, rfl⟩, rfl, ⟨rfl, rfl, rfl, rfl, rfl, rfl, rfl⟩, ⟨rfl, rfl⟩, rfl, rfl⟩

/-- The registers a store writes, each by its own name (R22, R286). -/
theorem regStore_cfg (s : State) (r : Reg) (v : Word) :
    (s.regStore r v).cfg = if r = .cfg then v &&& 3 else s.cfg := by cases r <;> rfl

theorem regStore_arg0 (s : State) (r : Reg) (v : Word) :
    (s.regStore r v).arg0 = if r = .arg0 then v else s.arg0 := by cases r <;> rfl

theorem regStore_arg1 (s : State) (r : Reg) (v : Word) :
    (s.regStore r v).arg1 = if r = .arg1 then v else s.arg1 := by cases r <;> rfl

theorem regStore_buflen (s : State) (r : Reg) (v : Word) :
    (s.regStore r v).buflen = if r = .buflen then low32 (min v.toNat s.bufCap) else s.buflen := by cases r <;> rfl

theorem regStore_symlen (s : State) (r : Reg) (v : Word) :
    (s.regStore r v).symlen = if r = .symlen then low32 (min v.toNat s.symCap) else s.symlen := by cases r <;> rfl

theorem regStore_poff (s : State) (r : Reg) (v : Word) :
    (s.regStore r v).poff = if r = .poff then v else s.poff := by cases r <;> rfl

theorem regStore_records (s : State) {r : Reg} (h : r ≠ .buflen) (v : Word) : SameRecords s (s.regStore r v) := by
  obtain e | ⟨-, e⟩ | ⟨-, e⟩ | ⟨-, e⟩ | ⟨hr, -⟩ | ⟨-, e⟩ | ⟨-, e⟩ := regStore_cases s r v
  case inr.inr.inr.inr.inl => exact absurd hr h
  all_goals rw [e]; exact ⟨rfl, rfl, rfl, rfl, rfl⟩

theorem regStore_memory (s : State) (r : Reg) (v : Word) : SameMemory s (s.regStore r v) := by
  cases r <;> exact ⟨fun _ => rfl, fun _ => rfl⟩

/-! ### The writers -/

theorem cmd_crc {i : Instr} {op : HostOp} (h : IsCrc i) (hop : op = Script.cmd i) :
    op = Script.cmd .crcInit ∨ (∃ b, op = Script.cmd (.crcByte b)) ∨ op = Script.cmd .crcBuf ∨
      op = Script.cmd .crc32 := by
  obtain rfl | ⟨b, rfl⟩ | rfl | rfl := h
  exacts [.inl hop, .inr (.inl ⟨b, hop⟩), .inr (.inr (.inl hop)), .inr (.inr (.inr hop))]

theorem cmd_adler {i : Instr} {op : HostOp} (h : IsAdler i) (hop : op = Script.cmd i) :
    op = Script.cmd .adlerInit ∨ (∃ b, op = Script.cmd (.adlerByte b)) ∨ op = Script.cmd .adlerBuf ∨
      op = Script.cmd .adler32 := by
  obtain rfl | ⟨b, rfl⟩ | rfl | rfl := h
  exacts [.inl hop, .inr (.inl ⟨b, hop⟩), .inr (.inr (.inl hop)), .inr (.inr (.inr hop))]

/-- A part of the state that the host's accesses and the system commands leave alone is as it was, or a command of the
other units was run. -/
theorem writer_of_changed {op : HostOp} (P : State → State → Prop) (h : hostAccess op s = .next t) (hr : op ≠ .reset)
    (hhost : HostFrame s t → P s t) (hsys : SystemFrame s t → P s t) (hc : ¬ P s t) :
    ∃ i, op = Script.cmd i ∧ ((IsCrc i ∧ CrcFrame s t) ∨ (IsAdler i ∧ AdlerFrame s t) ∨
      (i ∈ parseCommands ∧ ParserFrame s t) ∨ (i = .huffTable ∧ HuffmanFrame s t ∧ SameTree s t) ∨
      ((i = .huffTree ∨ i = .huffAll) ∧ HuffmanFrame s t)) := by
  obtain hf | ⟨i, rfl, hi⟩ | ⟨-, hf, -⟩ := hostAccess_frame h hr
  · exact absurd (hhost hf) hc
  · exact ⟨i, rfl, (exec_frame hi).resolve_left fun hf => hc (hsys hf)⟩
  · exact absurd (hsys hf) hc

theorem sticky_writers {op : HostOp} (h : hostAccess op s = .next t) (hr : op ≠ .reset)
    (hs : s.status.sticky = true) (ht : t.status.sticky = false) : op = Script.cmd .clrErr := by
  obtain hf | ⟨i, rfl, hi⟩ | ⟨-, -, hf⟩ := hostAccess_frame h hr
  · rw [hf.status, hs] at ht; cases ht
  · rw [exec_sticky hi hs ht]
  · rw [hf] at ht; cases ht

theorem outcome_writers {op : HostOp} (h : hostAccess op s = .next t) (hr : op ≠ .reset)
    (hc : t.status ≠ s.status ∨ t.errinfo ≠ s.errinfo) : ∃ w, op = .regWrite 0x00 w := by
  obtain hf | ⟨i, hop, -⟩ | ⟨hop, -⟩ := hostAccess_frame h hr
  · exact (hc.elim (· hf.status) (· hf.errinfo)).elim
  · exact ⟨encode i, hop⟩
  · exact hop

theorem crcState_writers {op : HostOp} (h : hostAccess op s = .next t) (hr : op ≠ .reset)
    (hc : t.crcState ≠ s.crcState) : op = Script.cmd .crcInit ∨ (∃ b, op = Script.cmd (.crcByte b)) ∨
      op = Script.cmd .crcBuf ∨ op = Script.cmd .crc32 := by
  obtain ⟨i, hop, ⟨hi, -⟩ | ⟨-, hf⟩ | ⟨-, hf⟩ | ⟨-, hf, -⟩ | ⟨-, hf⟩⟩ :=
    writer_of_changed (fun s t => t.crcState = s.crcState) h hr HostFrame.crc SystemFrame.crc hc
  · exact cmd_crc hi hop
  all_goals exact absurd hf.crc hc

theorem adler_writers {op : HostOp} (h : hostAccess op s = .next t) (hr : op ≠ .reset)
    (hc : ¬ SameAdler s t) : op = Script.cmd .adlerInit ∨ (∃ b, op = Script.cmd (.adlerByte b)) ∨
      op = Script.cmd .adlerBuf ∨ op = Script.cmd .adler32 := by
  obtain ⟨i, hop, ⟨-, hf⟩ | ⟨hi, -⟩ | ⟨-, hf⟩ | ⟨-, hf, -⟩ | ⟨-, hf⟩⟩ :=
    writer_of_changed SameAdler h hr HostFrame.adler SystemFrame.adler hc
  case inr.inl => exact cmd_adler hi hop
  all_goals exact absurd hf.adler hc

theorem pcons_writers {op : HostOp} (h : hostAccess op s = .next t) (hr : op ≠ .reset) (hc : t.pcons ≠ s.pcons) :
    ∃ i ∈ parseCommands, op = Script.cmd i := by
  obtain ⟨i, hop, ⟨-, hf⟩ | ⟨-, hf⟩ | ⟨hi, -⟩ | ⟨-, hf, -⟩ | ⟨-, hf⟩⟩ :=
    writer_of_changed (fun s t => t.pcons = s.pcons) h hr HostFrame.pcons (fun hf => hf.cursor.pcons) hc
  case inr.inr.inl => exact ⟨i, hi, hop⟩
  all_goals exact absurd hf.cursor.pcons hc

theorem tree_writers {op : HostOp} (h : hostAccess op s = .next t) (hr : op ≠ .reset) (hc : ¬ SameTree s t) :
    op = Script.cmd .huffTree ∨ op = Script.cmd .huffAll := by
  obtain ⟨i, hop, ⟨-, hf⟩ | ⟨-, hf⟩ | ⟨-, hf⟩ | ⟨-, -, hf⟩ | ⟨hi, -⟩⟩ :=
    writer_of_changed SameTree h hr HostFrame.tree SystemFrame.tree hc
  case inr.inr.inr.inl => exact absurd hf hc
  case inr.inr.inr.inr => obtain rfl | rfl := hi; exacts [.inl hop, .inr hop]
  all_goals exact absurd hf.tree hc

theorem table_writers {op : HostOp} (h : hostAccess op s = .next t) (hr : op ≠ .reset) (hc : ¬ SameTable s t) :
    op = Script.cmd .huffTree ∨ op = Script.cmd .huffTable ∨ op = Script.cmd .huffAll := by
  obtain ⟨i, hop, ⟨-, hf⟩ | ⟨-, hf⟩ | ⟨-, hf⟩ | ⟨hi, -⟩ | ⟨hi, -⟩⟩ :=
    writer_of_changed SameTable h hr HostFrame.table SystemFrame.table hc
  case inr.inr.inr.inl => obtain rfl := hi; exact .inr (.inl hop)
  case inr.inr.inr.inr => obtain rfl | rfl := hi; exacts [.inl hop, .inr (.inr hop)]
  all_goals exact absurd hf.table hc

theorem runCommand_inputs {w : Word} (h : runCommand w s = .next t) : SameInputs s t := by
  obtain ⟨i, -, hi⟩ | ⟨hf, -⟩ := runCommand_frame h
  · exact exec_inputs hi
  · exact hf.inputs

/-- The operand registers are written by a store alone. -/
theorem hostAccess_operands {op : HostOp} (h : hostAccess op s = .next t) (hr : op ≠ .reset) :
    SameOperands s t ∨ ∃ off r v, op = .regWrite off v ∧ regOfOffset off = some r ∧ t = s.regStore r v := by
  obtain ⟨-, v, rfl⟩ | ⟨off, r, v, hop, hreg, -, ht⟩ | ⟨w, -, hw⟩ | ⟨i, b, -, -, rfl⟩ | ⟨i, b, -, -, rfl⟩ | ⟨rfl, -⟩ :=
    hostAccess_cases h
  case inr.inl => exact .inr ⟨off, r, v, hop, hreg, ht⟩
  case inr.inr.inl => exact .inl (runCommand_inputs hw).operands
  case inr.inr.inr.inr.inr => exact absurd rfl hr
  all_goals exact .inl ⟨rfl, rfl, rfl, rfl, rfl⟩

/-- An operand register that a store changes is the one at the store's offset. -/
theorem operand_writer {op : HostOp} (f : State → Word) (reg : Reg) (place : Nat) (h : hostAccess op s = .next t)
    (hr : op ≠ .reset) (hsame : SameOperands s t → f t = f s)
    (hstore : ∀ r v, r ≠ reg → f (s.regStore r v) = f s) (hplace : ∀ off, regOfOffset off = some reg → off = place)
    (hc : f t ≠ f s) : ∃ v, op = .regWrite place v := by
  obtain hs | ⟨off, r, v, rfl, hreg, rfl⟩ := hostAccess_operands h hr
  · exact absurd (hsame hs) hc
  · obtain rfl : r = reg := by by_contra hne; exact hc (hstore r v hne)
    exact ⟨v, by rw [hplace off hreg]⟩

theorem cfg_writers {op : HostOp} (h : hostAccess op s = .next t) (hr : op ≠ .reset) :
    t.cfg ≠ s.cfg → ∃ v, op = .regWrite 0x08 v :=
  operand_writer State.cfg .cfg _ h hr SameOperands.cfg (fun r v hne => by rw [regStore_cfg, if_neg hne])
    fun _ hoff => let ⟨_, hcfg, _⟩ := written_offset hoff; hcfg rfl

theorem arg0_writers {op : HostOp} (h : hostAccess op s = .next t) (hr : op ≠ .reset) :
    t.arg0 ≠ s.arg0 → ∃ v, op = .regWrite 0x0C v :=
  operand_writer State.arg0 .arg0 _ h hr SameOperands.arg0 (fun r v hne => by rw [regStore_arg0, if_neg hne])
    fun _ hoff => let ⟨_, _, harg0, _⟩ := written_offset hoff; harg0 rfl

theorem arg1_writers {op : HostOp} (h : hostAccess op s = .next t) (hr : op ≠ .reset) :
    t.arg1 ≠ s.arg1 → ∃ v, op = .regWrite 0x10 v :=
  operand_writer State.arg1 .arg1 _ h hr SameOperands.arg1 (fun r v hne => by rw [regStore_arg1, if_neg hne])
    fun _ hoff => let ⟨_, _, _, harg1, _⟩ := written_offset hoff; harg1 rfl

theorem buflen_writers {op : HostOp} (h : hostAccess op s = .next t) (hr : op ≠ .reset) :
    t.buflen ≠ s.buflen → ∃ v, op = .regWrite 0x14 v :=
  operand_writer State.buflen .buflen _ h hr SameOperands.buflen (fun r v hne => by rw [regStore_buflen, if_neg hne])
    fun _ hoff => let ⟨_, _, _, _, hbuflen, _⟩ := written_offset hoff; hbuflen rfl

theorem symlen_writers {op : HostOp} (h : hostAccess op s = .next t) (hr : op ≠ .reset) :
    t.symlen ≠ s.symlen → ∃ v, op = .regWrite 0x18 v :=
  operand_writer State.symlen .symlen _ h hr SameOperands.symlen (fun r v hne => by rw [regStore_symlen, if_neg hne])
    fun _ hoff => let ⟨_, _, _, _, _, hsymlen, _⟩ := written_offset hoff; hsymlen rfl

/-- Every command but those of the parser leaves the cursor and the records (R130, R150, R217). -/
theorem runCommand_parser {w : Word} (h : runCommand w s = .next t) :
    (∃ i ∈ parseCommands, cmdWrite w = Script.cmd i) ∨ (SameCursor s t ∧ SameRecords s t) := by
  obtain ⟨i, hop, hi⟩ | ⟨hf, -⟩ := runCommand_frame h
  · obtain hf | ⟨-, hf⟩ | ⟨-, hf⟩ | ⟨hm, -⟩ | ⟨-, hf, -⟩ | ⟨-, hf⟩ := exec_frame hi
    case inr.inr.inr.inl => exact .inl ⟨i, hm, hop⟩
    all_goals exact .inr ⟨hf.cursor, hf.records⟩
  · exact .inr ⟨hf.cursor, hf.records⟩

theorem poff_writers {op : HostOp} (h : hostAccess op s = .next t) (hr : op ≠ .reset) (hc : t.poff ≠ s.poff) :
    (∃ v, op = .regWrite 0x40 v) ∨ ∃ i ∈ parseCommands, op = Script.cmd i := by
  obtain ⟨-, v, rfl⟩ | ⟨off, r, v, rfl, hreg, -, rfl⟩ | ⟨w, rfl, hw⟩ |
    ⟨i, b, -, -, rfl⟩ | ⟨i, b, -, -, rfl⟩ | ⟨rfl, -⟩ := hostAccess_cases h
  case inr.inl =>
    obtain ⟨-, -, -, -, -, -, hoff⟩ := written_offset hreg
    rw [regStore_poff] at hc
    split at hc
    · next hp => exact .inl ⟨v, by rw [hoff hp]⟩
    · exact absurd rfl hc
  case inr.inr.inl => exact .inr ((runCommand_parser hw).resolve_right fun hf => hc hf.1.poff)
  case inr.inr.inr.inr.inr => exact absurd rfl hr
  all_goals exact absurd rfl hc

theorem records_writers {op : HostOp} (h : hostAccess op s = .next t) (hr : op ≠ .reset) (hc : ¬ SameRecords s t) :
    (∃ i b, op = .bufWrite i b) ∨ (∃ v, op = .regWrite 0x14 v) ∨ ∃ i ∈ parseCommands, op = Script.cmd i := by
  obtain ⟨-, v, rfl⟩ | ⟨off, r, v, rfl, hreg, -, rfl⟩ | ⟨w, rfl, hw⟩ |
    ⟨i, b, rfl, -, -⟩ | ⟨i, b, -, -, rfl⟩ | ⟨rfl, -⟩ := hostAccess_cases h
  case inr.inl =>
    obtain ⟨-, -, -, -, hoff, -, -⟩ := written_offset hreg
    obtain rfl : r = .buflen := by by_contra hne; exact hc (regStore_records s hne v)
    exact .inr (.inl ⟨v, by rw [hoff rfl]⟩)
  case inr.inr.inl => exact .inr (.inr ((runCommand_parser hw).resolve_right fun hf => hc hf.2))
  case inr.inr.inr.inl => exact .inl ⟨i, b, rfl⟩
  case inr.inr.inr.inr.inr => exact absurd rfl hr
  all_goals exact absurd ⟨rfl, rfl, rfl, rfl, rfl⟩ hc

theorem bufByte_writers {op : HostOp} {a : Nat} (h : hostAccess op s = .next t) (hr : op ≠ .reset)
    (hc : t.bufByte a ≠ s.bufByte a) : ∃ b, op = .bufWrite a b := by
  obtain ⟨-, v, rfl⟩ | ⟨off, r, v, -, -, -, rfl⟩ | ⟨w, -, hw⟩ | ⟨i, b, rfl, -, rfl⟩ | ⟨i, b, -, -, rfl⟩ | ⟨rfl, -⟩ :=
    hostAccess_cases h
  case inr.inl => exact absurd ((regStore_memory s r v).buf a) hc
  case inr.inr.inl => exact absurd ((runCommand_inputs hw).memory.buf a) hc
  case inr.inr.inr.inl =>
    obtain rfl : a = i := by by_contra hne; exact hc (s.putBuf_bufByte_other b hne)
    exact ⟨b, rfl⟩
  case inr.inr.inr.inr.inr => exact absurd rfl hr
  all_goals exact absurd rfl hc

theorem symByte_writers {op : HostOp} {a : Nat} (h : hostAccess op s = .next t) (hr : op ≠ .reset)
    (hc : t.symByte a ≠ s.symByte a) : ∃ b, op = .symWrite a b := by
  obtain ⟨-, v, rfl⟩ | ⟨off, r, v, -, -, -, rfl⟩ | ⟨w, -, hw⟩ | ⟨i, b, -, -, rfl⟩ | ⟨i, b, rfl, -, rfl⟩ | ⟨rfl, -⟩ :=
    hostAccess_cases h
  case inr.inl => exact absurd ((regStore_memory s r v).sym a) hc
  case inr.inr.inl => exact absurd ((runCommand_inputs hw).memory.sym a) hc
  case inr.inr.inr.inr.inl =>
    obtain rfl : a = i := by by_contra hne; exact hc (s.putSym_symByte_other b hne)
    exact ⟨b, rfl⟩
  case inr.inr.inr.inr.inr => exact absurd rfl hr
  all_goals exact absurd rfl hc

/-- No access changes a capacity (R9). -/
theorem hostAccess_capacities {op : HostOp} (h : hostAccess op s = .next t) (hr : op ≠ .reset) :
    t.bufCap = s.bufCap ∧ t.symCap = s.symCap := by
  obtain hf | ⟨i, -, hi⟩ | ⟨-, hf, -⟩ := hostAccess_frame h hr
  · exact ⟨hf.bufCap, hf.symCap⟩
  · exact ⟨(exec_inputs hi).run.bufCap, (exec_inputs hi).run.symCap⟩
  · exact ⟨hf.inputs.run.bufCap, hf.inputs.run.symCap⟩

end Sys2Proof.Machine

open Sys2Proof Sys2Proof.Machine

/-- Settles O56, part by part, from the frames of the units and of the host's accesses. -/
theorem stateHasItsWriters : Obligations.StateHasItsWriters := fun _ _ _ h hr =>
  ⟨sticky_writers h hr, outcome_writers h hr, crcState_writers h hr, adler_writers h hr, poff_writers h hr,
    pcons_writers h hr, records_writers h hr, cfg_writers h hr, arg0_writers h hr, arg1_writers h hr,
    buflen_writers h hr, symlen_writers h hr, fun _ => bufByte_writers h hr, fun _ => symByte_writers h hr,
    tree_writers h hr, table_writers h hr, hostAccess_capacities h hr⟩

end

section
/-! No command reads BUF at or above `BUFLEN` or SYM at or above `SYMLEN` (R29, R75, R76): what reading depends on,
the bodies with the two memories exchanged, and O34. -/

namespace Sys2Proof.Machine

variable {s t u : State} {b y : Memory}

/-! ### Reading inside the buffer -/

/-- Two states whose buffers read alike below `BUFLEN`. -/
structure SameValidBytes (s t : State) : Prop where
  buflen : t.buflen = s.buflen
  byte : ∀ a, a < s.buflen.toNat → t.bufByte a = s.bufByte a

theorem SameValidBytes.range (h : SameValidBytes s t) {i n : Nat} (hn : i + n ≤ s.buflen.toNat) :
    t.bufRange i n = s.bufRange i n :=
  State.bufRange_congr fun a _ ha => h.byte a (by omega)

theorem SameValidBytes.word (h : SameValidBytes s t) {a : Nat} (ha : s.fits a 4) : t.be32 a = s.be32 a :=
  State.be32_congr fun i _ hi => h.byte i (by omega)

theorem SameValidBytes.crc (h : SameValidBytes s t) {o n : Nat} (hn : o + 8 + n ≤ s.buflen.toNat) :
    t.chunkCrc o n = s.chunkCrc o n :=
  State.chunkCrc_congr fun i _ hi => h.byte i (by omega)

theorem SameValidBytes.fits (h : SameValidBytes s t) (a n : Nat) : t.fits a n = s.fits a n := by
  unfold State.fits; rw [h.buflen]

/-- The bounds test of a field, which comes before its read (R76). -/
theorem SameValidBytes.bound_congr (h : SameValidBytes s t) {α : Type} {a n : Nat} {x p q : α}
    (hpq : s.fits a n → p = q) : (if ¬ t.fits a n then x else p) = if ¬ s.fits a n then x else q :=
  ite_congr (by rw [h.fits]) (fun _ => rfl) fun hf => hpq (not_not.1 hf)

theorem SameValidBytes.readSig (h : SameValidBytes s t) : t.readSig = s.readSig := by
  unfold State.readSig
  rw [h.buflen]
  by_cases h8 : s.buflen.toNat < 8
  · rw [if_pos (.inl h8), if_pos (.inl h8)]
  · rw [h.range (i := 0) (n := 8) (by omega)]

theorem SameValidBytes.readIhdr (h : SameValidBytes s t) (o : Nat) : t.readIhdr o = s.readIhdr o := by
  unfold State.readIhdr
  refine h.bound_congr fun hlen => ?_
  rw [h.word hlen]
  refine ite_congr rfl (fun _ => rfl) fun _ => ?_
  refine h.bound_congr fun htag => ?_
  rw [h.word htag]
  refine ite_congr rfl (fun _ => rfl) fun _ => ?_
  refine h.bound_congr fun hdata => ?_
  refine h.bound_congr fun hcrc => ?_
  rw [h.word hcrc, h.crc (n := 13) (by omega), h.word (a := o + 8) (by omega), h.word (a := o + 12) (by omega),
    h.byte (o + 16) (by omega), h.byte (o + 17) (by omega), h.byte (o + 18) (by omega), h.byte (o + 19) (by omega),
    h.byte (o + 20) (by omega)]

theorem SameValidBytes.readIdat (h : SameValidBytes s t) (hs : t.strict = s.strict) (o : Nat) :
    t.readIdat o = s.readIdat o := by
  unfold State.readIdat
  extract_lets n m
  refine h.bound_congr fun hlen => ?_
  have hnm : n = m := congrArg BitVec.toNat (h.word hlen)
  clear_value n m
  subst hnm
  refine h.bound_congr fun htag => ?_
  rw [h.word htag]
  refine ite_congr rfl (fun _ => rfl) fun _ => ?_
  refine h.bound_congr fun hdata => ?_
  refine h.bound_congr fun hcrc => ?_
  rw [h.word hcrc, h.crc hdata, h.word hlen, hs]

theorem SameValidBytes.readIend (h : SameValidBytes s t) (hs : t.strict = s.strict) (o : Nat) :
    t.readIend o = s.readIend o := by
  unfold State.readIend
  refine h.bound_congr fun hlen => ?_
  rw [h.word hlen]
  refine ite_congr rfl (fun _ => rfl) fun _ => ?_
  refine h.bound_congr fun htag => ?_
  rw [h.word htag]
  refine ite_congr rfl (fun _ => rfl) fun _ => ?_
  refine h.bound_congr fun hcrc => ?_
  rw [h.word hcrc, h.crc (n := 0) (by omega), hs]

/-! ### The memories exchanged -/

/-- The state with other contents of BUF and SYM. -/
def State.withMemories (b y : Memory) (s : State) : State := { s with buf := b, sym := y }

/-- The body that leaves the same state but for BUF and SYM. -/
def Body.withMemories (b y : Memory) : Body → Body
  | .done s => .done (s.withMemories b y)
  | .raised s e g i => .raised (s.withMemories b y) e g i

/-- The other contents read alike below `BUFLEN` and `SYMLEN`. -/
structure ReadsAlike (b y : Memory) (s : State) : Prop where
  buf : ∀ a, a < s.buflen.toNat → (s.withMemories b y).bufByte a = s.bufByte a
  sym : ∀ a, a < s.symlen.toNat → (s.withMemories b y).symByte a = s.symByte a

theorem ReadsAlike.bytes (h : ReadsAlike b y s) : SameValidBytes s (s.withMemories b y) := ⟨rfl, h.buf⟩

theorem ReadsAlike.symbols (h : ReadsAlike b y s) : (s.withMemories b y).symbols = s.symbols :=
  State.symRange_congr fun a _ ha => h.sym a (lt_of_lt_of_eq ha (Nat.zero_add _))

theorem ReadsAlike.parserUpdate (h : ReadsAlike b y s) (hu : ParserUpdate s u) : ReadsAlike b y u := by
  obtain ⟨_, _, _, _, _, _, _, rfl⟩ := hu
  exact ⟨h.buf, h.sym⟩

theorem Body.close_withMemories {c : Body} (h : c.close = .next t) :
    (c.withMemories b y).close = .next (t.withMemories b y) := by
  cases c <;> cases h <;> rfl

theorem Body.andThen_withMemories {P : State → Prop} {c : Body} {f : State → Body} (hc : c.Leaves P)
    (hf : ∀ u, P u → f (u.withMemories b y) = (f u).withMemories b y) :
    (c.withMemories b y).andThen f = (c.andThen f).withMemories b y := by
  cases c with
  | done u => exact hf u hc
  | raised u e g i => rfl

theorem ReadsAlike.overRange (h : ReadsAlike b y s) {f g : List Byte → State}
    (hfg : ∀ bytes, g bytes = (f bytes).withMemories b y) (ht : s.overRange f = .next t) :
    (s.withMemories b y).overRange g = .next (t.withMemories b y) := by
  obtain ⟨hfit, he⟩ | ⟨hout, he⟩ := s.overRange_cases f <;> rw [he] at ht <;> cases ht
  · refine (if_pos hfit).trans ?_
    rw [hfg]
    change Host.Outcome.next ((f ((s.withMemories b y).bufRange s.arg0.toNat s.arg1.toNat)).withMemories b y).finish = _
    rw [h.bytes.range hfit]
    rfl
  · exact if_neg (Nat.not_le.2 hout)

theorem ReadsAlike.sigBody (h : ReadsAlike b y s) : (s.withMemories b y).sigBody = s.sigBody.withMemories b y := by
  unfold State.sigBody; rw [h.bytes.readSig]; cases s.readSig <;> rfl

theorem State.withMemories_poff (b y : Memory) (s : State) : (s.withMemories b y).poff = s.poff := rfl

theorem ReadsAlike.ihdrBody (h : ReadsAlike b y s) : (s.withMemories b y).ihdrBody = s.ihdrBody.withMemories b y := by
  unfold State.ihdrBody
  rw [State.withMemories_poff, h.bytes.readIhdr]
  cases s.readIhdr s.poff.toNat <;> rfl

theorem ReadsAlike.idatBody (h : ReadsAlike b y s) : (s.withMemories b y).idatBody = s.idatBody.withMemories b y := by
  unfold State.idatBody
  rw [State.withMemories_poff, h.bytes.readIdat rfl]
  cases s.readIdat s.poff.toNat <;> rfl

theorem ReadsAlike.iendBody (h : ReadsAlike b y s) : (s.withMemories b y).iendBody = s.iendBody.withMemories b y := by
  unfold State.iendBody
  rw [State.withMemories_poff, h.bytes.readIend rfl]
  cases s.readIend s.poff.toNat <;> rfl

theorem ReadsAlike.decodeStages (h : ReadsAlike b y s) :
    (s.withMemories b y).decodeStages = s.decodeStages.withMemories b y := by
  unfold State.decodeStages
  rw [h.sigBody]
  refine Body.andThen_withMemories (sigBody_leaves s) fun u1 hu1 => ?_
  have h1 := h.parserUpdate hu1
  rw [h1.ihdrBody]
  refine Body.andThen_withMemories (ihdrBody_leaves u1) fun u2 hu2 => ?_
  have h2 := h1.parserUpdate hu2
  rw [h2.idatBody]
  exact Body.andThen_withMemories (idatBody_leaves u2) fun u3 hu3 => (h2.parserUpdate hu3).iendBody

theorem ReadsAlike.decodeBody (h : ReadsAlike b y s) :
    (s.withMemories b y).decodeBody = s.decodeBody.withMemories b y := by
  have hstart : (s.withMemories b y).decodeStart = s.decodeStart.withMemories b y := rfl
  unfold State.decodeBody
  rw [hstart, (h.parserUpdate (decodeStart_update s)).decodeStages]
  cases s.decodeStart.decodeStages <;> rfl

theorem ReadsAlike.huffTreeBody (h : ReadsAlike b y s) :
    (s.withMemories b y).huffTreeBody = s.huffTreeBody.withMemories b y := by
  have hsyms : (s.withMemories b y).symRange 0 (s.withMemories b y).symlen.toNat = s.symRange 0 s.symlen.toNat :=
    h.symbols
  unfold State.huffTreeBody
  rw [hsyms]
  by_cases hn : s.symlen = 0
  · exact (if_pos hn).trans (by rw [if_pos hn]; rfl)
  · exact (if_neg hn).trans (by rw [if_neg hn]; rfl)

theorem State.withMemories_flags (b y : Memory) (s : State) : (s.withMemories b y).treeV = s.treeV ∧
    (s.withMemories b y).degen = s.degen ∧ (s.withMemories b y).degenErr = s.degenErr := ⟨rfl, rfl, rfl⟩

/-- `HUFF_TABLE` reads the tree only. -/
theorem huffTableBody_withMemories (b y : Memory) (s : State) :
    (s.withMemories b y).huffTableBody = s.huffTableBody.withMemories b y := by
  obtain ⟨htree, hdegen, herr⟩ := State.withMemories_flags b y s
  unfold State.huffTableBody
  rw [htree, hdegen, herr]
  split_ifs <;> rfl

theorem ReadsAlike.huffAllBody (h : ReadsAlike b y s) :
    (s.withMemories b y).huffTreeBody.andThen State.huffTableBody =
      (s.huffTreeBody.andThen State.huffTableBody).withMemories b y := by
  rw [h.huffTreeBody]
  exact Body.andThen_withMemories (huffTreeBody_leaves s) fun u _ => huffTableBody_withMemories b y u

/-- Every command takes states that differ only in what it may not read to states that differ only there. -/
theorem ReadsAlike.exec (h : ReadsAlike b y s) {i : Instr} (ht : exec i s = .next t) :
    exec i (s.withMemories b y) = .next (t.withMemories b y) := by
  cases i with
  | nop | clrErr | crcInit | crcByte | adlerInit | adlerByte => cases ht; rfl
  | crcBuf => rw [exec_crcBuf] at ht ⊢; exact h.overRange (fun _ => rfl) ht
  | crc32 => rw [exec_crc32] at ht ⊢; exact h.overRange (fun _ => rfl) ht
  | adlerBuf => rw [exec_adlerBuf] at ht ⊢; exact h.overRange (fun _ => rfl) ht
  | adler32 => rw [exec_adler32] at ht ⊢; exact h.overRange (fun _ => rfl) ht
  | parseSig => exact (congrArg Body.close h.sigBody).trans (Body.close_withMemories ht)
  | parseIhdr => exact (congrArg Body.close h.ihdrBody).trans (Body.close_withMemories ht)
  | parseIdat => exact (congrArg Body.close h.idatBody).trans (Body.close_withMemories ht)
  | parseIend => exact (congrArg Body.close h.iendBody).trans (Body.close_withMemories ht)
  | decode => exact (congrArg Body.close h.decodeBody).trans (Body.close_withMemories ht)
  | huffTree => exact (congrArg Body.close h.huffTreeBody).trans (Body.close_withMemories ht)
  | huffTable => exact (congrArg Body.close (huffTableBody_withMemories b y s)).trans (Body.close_withMemories ht)
  | huffAll => exact (congrArg Body.close h.huffAllBody).trans (Body.close_withMemories ht)

end Sys2Proof.Machine

open Sys2Proof Sys2Proof.Machine

/-- Settles O34, by exchanging the two memories in every command's body. -/
theorem bytesBeyondLengthsUnread : Obligations.BytesBeyondLengthsUnread := by
  intro i s u hu hbuf hsym t ht
  have hmem : u = s.withMemories u.buf u.sym := hu
  have h : ReadsAlike u.buf u.sym s := ⟨by rw [← hmem]; exact hbuf, by rw [← hmem]; exact hsym⟩
  have hexec := h.exec ht
  rwa [← hmem] at hexec

end

section
/-! The bits of the flag words and of the words of ports NODE and CODE: O9, O47, O48. -/

namespace Sys2Proof.Machine

variable {s t : State}

/-! ### Flag words -/

theorem getLsbD_bitAt (j : Nat) (b : Bool) (k : Nat) :
    (bitAt j b).getLsbD k = (decide (j < 32) && decide (j = k) && b) := by
  cases b with
  | false => simp [bitAt]
  | true => rw [bitAt, if_pos rfl, ← BitVec.twoPow_eq, BitVec.getLsbD_twoPow, Bool.and_true]

/-- The bits of a number that fits the word. -/
theorem getLsbD_ofNat_of_lt {w x : Nat} (h : x < 2 ^ w) (k : Nat) : (BitVec.ofNat w x).getLsbD k = x.testBit k := by
  rw [BitVec.getLsbD_ofNat]
  by_cases hk : k < w
  · rw [decide_eq_true hk, Bool.true_and]
  · rw [decide_eq_false hk, Bool.false_and,
      Nat.testBit_lt_two_pow (lt_of_lt_of_le h (Nat.pow_le_pow_right (by decide) (Nat.not_lt.1 hk)))]

theorem errNumber_lt (e : ErrCode) : errNumber e < 2 ^ 4 := by cases e <;> decide

theorem stageNumber_lt (g : Stage) : stageNumber g < 2 ^ 3 := by cases g <;> decide

/-- A field of `m` bits has no bit above them. -/
theorem testBit_of_field {x m k : Nat} (h : x < 2 ^ m) (hk : m ≤ k) : x.testBit k = false :=
  Nat.testBit_lt_two_pow (lt_of_lt_of_le h (Nat.pow_le_pow_right (by decide) hk))

/-- The three fields of `STATUS` (R25), each at its place. -/
theorem statusWord_bit (s : State) (k : Nat) :
    s.statusWord.getLsbD k =
      (if k < 4 then (errNumber s.status.err).testBit k
       else if 4 ≤ k ∧ k < 7 then (stageNumber s.status.stage).testBit (k - 4)
       else k == 8 && s.status.sticky) := by
  have he := errNumber_lt s.status.err
  have hg := stageNumber_lt s.status.stage
  have hbits : s.statusWord.getLsbD k = ((errNumber s.status.err).testBit k ||
      (decide (k < 32) && !decide (k < 4) && (stageNumber s.status.stage).testBit (k - 4)) ||
      (decide (8 = k) && s.status.sticky)) := by
    unfold State.statusWord
    rw [BitVec.getLsbD_or, BitVec.getLsbD_or, BitVec.getLsbD_shiftLeft, getLsbD_bitAt,
      getLsbD_ofNat_of_lt (by omega), getLsbD_ofNat_of_lt (by omega)]
    rfl
  rw [hbits]
  by_cases h4 : k < 4
  · have h8 : 8 ≠ k := by omega
    simp [h4, h8]
  · rw [testBit_of_field he (by omega)]
    by_cases h7 : k < 7
    · have h8 : 8 ≠ k := by omega
      have h32 : k < 32 := by omega
      simp [h4, h7, h8, h32, Nat.not_lt.1 h4]
    · rw [testBit_of_field hg (by omega)]
      have h8 : decide (8 = k) = (k == 8) := by rw [beq_eq_decide]; exact decide_eq_decide.2 eq_comm
      simp [h4, h7, h8]

/-- The bits of `PSTAT` (R40). -/
theorem pstat_bit (s : State) (k : Nat) : s.pstat.getLsbD k = true ↔
    (k = 0 ∧ s.sig ≠ none) ∨ (k = 1 ∧ s.ihdr ≠ none) ∨ (k = 2 ∧ s.idat ≠ none) ∨ (k = 3 ∧ s.iend ≠ none) ∨
    (k = 4 ∧ s.decV = true) ∨ (k = 8 ∧ s.ihdr ≠ none) ∨ (k = 9 ∧ ∃ r, s.idat = some r ∧ r.crc = r.crcCalc) ∨
    (k = 10 ∧ ∃ r, s.iend = some r ∧ r.crc = r.crcCalc) := by
  unfold State.pstat
  simp only [BitVec.getLsbD_or, getLsbD_bitAt, Bool.or_eq_true, Bool.and_eq_true, decide_eq_true_eq,
    Option.isSome_iff_ne_none, Option.any_eq_true, beq_iff_eq, or_assoc, eq_comm (b := k)]
  simp

/-- The bits of `HSTAT` (R46). -/
theorem hstat_bit (s : State) (k : Nat) : s.hstat.getLsbD k = true ↔
    (k = 0 ∧ s.treeV = true) ∨ (k = 1 ∧ s.tableV = true) ∨ (k = 2 ∧ s.degen = true) := by
  unfold State.hstat
  simp only [BitVec.getLsbD_or, getLsbD_bitAt, Bool.or_eq_true, Bool.and_eq_true, decide_eq_true_eq, or_assoc,
    eq_comm (b := k)]
  simp

/-- The two options as bits of the number `CFG` holds (R27). -/
theorem cfg_options (s : State) :
    (s.strict = true ↔ s.cfg.toNat % 2 = 1) ∧ (s.degenErr = true ↔ s.cfg.toNat / 2 % 2 = 1) := by
  constructor
  · rw [State.strict, BitVec.getLsbD, Nat.testBit_zero, decide_eq_true_eq]
  · rw [State.degenErr, BitVec.getLsbD, Nat.testBit_succ, Nat.testBit_zero, decide_eq_true_eq]

/-! ### Port CODE -/

/-- The bits of packed path bits, the first at bit 0 (R50). -/
theorem getLsbD_packBits (bits : List Bool) (k : Nat) :
    (packBits bits).getLsbD k = (decide (k < 32) && (bits[k]?).getD false) := by
  induction bits generalizing k with
  | nil => simp [packBits]
  | cons b bits ih =>
    rw [packBits, BitVec.getLsbD_or, getLsbD_bitAt, BitVec.getLsbD_shiftLeft, ih]
    cases k with
    | zero => simp
    | succ k =>
      have hk : k + 1 < 32 → k < 32 := by omega
      by_cases h : k + 1 < 32 <;> simp [h, hk]

/-- Word `j` of the 16 words of symbol `n` (R50). -/
theorem codeWord_entry {n j : Nat} {path : List Bool} (h : Table.find s.code n = some path) (hj : j < 16) :
    s.codeWord (16 * n + j) = codeEntryWord path j := by
  have hdiv : (16 * n + j) / 16 = n := by omega
  have hmod : (16 * n + j) % 16 = j := by omega
  unfold State.codeWord
  rw [hdiv, hmod, h]

theorem codeWord_of_none {n j : Nat} (h : Table.find s.code n = none) (hj : j < 16) : s.codeWord (16 * n + j) = 0 := by
  have hdiv : (16 * n + j) / 16 = n := by omega
  unfold State.codeWord
  rw [hdiv, h]

/-- Word 0 of an entry: `VALID` above the length (R50). -/
theorem codeEntryWord_zero_toNat {path : List Bool} (h : path.length ≤ 255) :
    (codeEntryWord path 0).toNat = 2 ^ 31 + path.length := by
  rw [codeEntryWord, if_pos rfl, BitVec.toNat_or, BitVec.toNat_setWidth, BitVec.toNat_ofNat,
    BitVec.toNat_ofNat, Nat.mod_eq_of_lt (show path.length < 2 ^ 9 by omega),
    Nat.mod_eq_of_lt (show path.length < 2 ^ 32 by omega)]
  exact (Nat.two_pow_add_eq_or_of_lt (show path.length < 2 ^ 31 by omega) 1).symm

/-- Path bit `k` stands at bit `k mod 32` of word `1 + k div 32` (R50). -/
theorem codeEntryWord_bit (path : List Bool) {k : Nat} (hk : k < 256) :
    (codeEntryWord path (1 + k / 32)).getLsbD (k % 32) = (path[k]?).getD false := by
  have hj : 1 + k / 32 ≤ 8 := by omega
  have hmod : k % 32 < 32 := Nat.mod_lt _ (by decide)
  have hidx : 32 * (1 + k / 32 - 1) + k % 32 = k := by omega
  rw [codeEntryWord, if_neg (by omega), if_pos hj, getLsbD_packBits, List.getElem?_take_of_lt hmod, List.getElem?_drop,
    hidx, decide_eq_true hmod, Bool.true_and]

theorem codeEntryWord_high (path : List Bool) {j : Nat} (hj : 9 ≤ j) : codeEntryWord path j = 0 := by
  rw [codeEntryWord, if_neg (by omega), if_neg (by omega)]

/-! ### Port NODE -/

theorem nodeWord_weight {k : Nat} {x : HNode} (h : s.node[k]? = some x) : s.nodeWord (2 * k) = low32 x.weight := by
  have hdiv : 2 * k / 2 = k := by omega
  have hmod : 2 * k % 2 = 0 := by omega
  unfold State.nodeWord
  rw [hdiv, h, hmod]
  rfl

theorem nodeWord_info {k : Nat} {x : HNode} (h : s.node[k]? = some x) : s.nodeWord (2 * k + 1) = x.info := by
  have hdiv : (2 * k + 1) / 2 = k := by omega
  have hmod : (2 * k + 1) % 2 = 1 := by omega
  unfold State.nodeWord
  rw [hdiv, h, hmod]
  rfl

theorem nodeWord_of_none {k j : Nat} (h : s.node[k]? = none) (hj : j < 2) : s.nodeWord (2 * k + j) = 0 := by
  have hdiv : (2 * k + j) / 2 = k := by omega
  unfold State.nodeWord
  rw [hdiv, h]

/-- A leaf's info word: `VALID` and the symbol, which do not overlap (R49). -/
theorem HNode.leaf_info (sym : Byte) (w : Nat) : (HNode.leaf sym w).info = 0x80000000 + zext sym := by
  have hsym := sym.isLt
  have hz : (zext sym).toNat = sym.toNat := BitVec.toNat_setWidth_of_le (by decide)
  apply BitVec.eq_of_toNat_eq
  rw [HNode.info, BitVec.toNat_or, BitVec.toNat_add, hz]
  change 2 ^ 31 * 1 ||| sym.toNat = (2 ^ 31 * 1 + sym.toNat) % 2 ^ 32
  rw [← Nat.two_pow_add_eq_or_of_lt (by omega), Nat.mod_eq_of_lt (by omega)]

/-- An internal node's info word: `VALID`, `KIND` and the two fields side by side (R49). -/
theorem HNode.internal_info_toNat (w : Nat) {l r : Nat} (hl : l < 512) (hr : r < 512) :
    (HNode.internal w l r).info.toNat = 2 ^ 31 + 2 ^ 30 + r * 2 ^ 16 + l := by
  have hlw : ((BitVec.ofNat 9 l).setWidth 32).toNat = l := by
    rw [BitVec.toNat_setWidth, BitVec.toNat_ofNat, Nat.mod_eq_of_lt (show l < 2 ^ 9 from hl)]
    exact Nat.mod_eq_of_lt (by omega)
  have hrw : ((BitVec.ofNat 9 r).setWidth 32 <<< 16).toNat = r <<< 16 := by
    rw [BitVec.toNat_shiftLeft, BitVec.toNat_setWidth, BitVec.toNat_ofNat, Nat.mod_eq_of_lt (show r < 2 ^ 9 from hr),
      Nat.mod_eq_of_lt (show r < 2 ^ 32 by omega), Nat.shiftLeft_eq]
    exact Nat.mod_eq_of_lt (by omega)
  have htop : 3 <<< 30 ||| r <<< 16 = (3 * 2 ^ 14 + r) <<< 16 := by
    rw [← Nat.shiftLeft_add_eq_or_of_lt (show r <<< 16 < 2 ^ 30 by rw [Nat.shiftLeft_eq]; omega)]
    simp only [Nat.shiftLeft_eq]
    omega
  rw [HNode.info, BitVec.toNat_or, BitVec.toNat_or, hlw, hrw]
  change 3 <<< 30 ||| r <<< 16 ||| l = _
  rw [htop, ← Nat.shiftLeft_add_eq_or_of_lt (show l < 2 ^ 16 by omega), Nat.shiftLeft_eq]
  omega

end Sys2Proof.Machine

open Sys2Proof Sys2Proof.Machine

/-- Settles O9, word by word. -/
theorem statusAndFlagWordLayouts : Obligations.StatusAndFlagWordLayouts :=
  ⟨rfl, rfl, fun s k => ⟨statusWord_bit s k, pstat_bit s k, hstat_bit s k, cfg_options s⟩⟩

/-- Settles O47: the words of an entry by their bits. -/
theorem codePortLayout : Obligations.CodePortLayout := by
  refine fun s b => ⟨fun path hpath hlen => ?_, fun hnone j hj => codeWord_of_none hnone (by omega)⟩
  have hzero : (s.codeWord (16 * b.toNat)).toNat = 2 ^ 31 + path.length := by
    rw [← codeEntryWord_zero_toNat hlen, ← codeWord_entry hpath (by decide), Nat.add_zero]
  refine ⟨?_, by omega, fun k hk => ?_, fun j h9 h15 => ?_⟩
  · rw [BitVec.getLsbD, hzero, Nat.testBit_eq_decide_div_mod_eq, decide_eq_true_eq]; omega
  · rw [Nat.add_assoc, codeWord_entry hpath (by omega), codeEntryWord_bit path hk]
  · rw [codeWord_entry hpath (by omega), codeEntryWord_high path h9]

/-- Settles O48: the two words of a node. -/
theorem nodePortLayout : Obligations.NodePortLayout := by
  refine fun s k => ⟨fun h => ⟨nodeWord_of_none h (j := 0) (by decide), nodeWord_of_none h (by decide)⟩,
    fun sym w h => ⟨nodeWord_weight h, ?_⟩, fun w l r h hl hr => ⟨nodeWord_weight h, ?_⟩⟩
  · rw [nodeWord_info h, HNode.leaf_info]
  · rw [nodeWord_info h, HNode.internal_info_toNat w hl hr]

end

section
/-! What every read returns, and what a written register reads as: O50, O51. -/

namespace Sys2Proof.Machine

variable {s t u : State}

/-! ### Reads -/

/-- No register's value depends on the host's record of its reads (R23, R75). -/
theorem State.logRead_regValue (s : State) (v : Word) (r : Reg) : (s.logRead v).regValue r = s.regValue r := by
  cases r <;> rfl

/-- A read logs one value, and the same read after it logs the same. -/
theorem hostAccess_read {op : HostOp} (hop : isRead op = true) (h : hostAccess op s = .next t) :
    ∃ v, t = s.logRead v ∧ hostAccess op t = .next (t.logRead v) := by
  cases op with
  | regRead off =>
    cases hr : regOfOffset off with
    | none => simp only [hostAccess, hr] at h; cases h
    | some r =>
      rw [hostAccess_regRead hr] at h
      cases h
      exact ⟨_, rfl, by rw [hostAccess_regRead hr, s.logRead_regValue]⟩
  | bufRead | symRead | freqRead | nodeRead | codeRead =>
    unfold hostAccess at h
    simp only at h
    split at h
    · next hi => cases h; exact ⟨_, rfl, if_pos hi⟩
    · cases h
  | regWrite | bufWrite | symWrite | reset => cases hop

theorem State.logRead_sameBlock (s : State) (v : Word) : SameBlock s (s.logRead v) :=
  ⟨rfl, rfl, rfl, ⟨rfl, rfl, rfl, rfl, rfl⟩, ⟨fun _ => rfl, fun _ => rfl⟩, rfl, ⟨rfl, rfl⟩, ⟨rfl, rfl⟩,
    ⟨rfl, rfl, rfl, rfl, rfl⟩, ⟨rfl, rfl, rfl, rfl, rfl, rfl, rfl⟩, ⟨rfl, rfl⟩⟩

/-- A register's offset returns the value the register is known to have. -/
theorem returns_reg {off : Nat} (r : Reg) {v : Word} (h : regOfOffset off = some r) (hv : s.regValue r = v) :
    Returns s (.regRead off) v :=
  hv ▸ returns_regRead h

theorem returns_offset {off n : Nat} {v : Word} (hdvd : off % 4 = 0) (hle : off ≤ 0xFC) (hn : off / 4 = n)
    (hv : s.regValue (regAt n) = v) : Returns s (.regRead off) v :=
  returns_reg _ (regOfOffset_inside ⟨hdvd, hle⟩) (by rw [hn]; exact hv)

theorem ofIhdr_some {r : IhdrRec} (h : s.ihdr = some r) (f : IhdrRec → Word) : s.ofIhdr f = f r := by
  unfold State.ofIhdr; rw [h]; rfl

theorem ofIdat_some {r : IdatRec} (h : s.idat = some r) (f : IdatRec → Word) : s.ofIdat f = f r := by
  unfold State.ofIdat; rw [h]; rfl

theorem ofIend_some {r : IendRec} (h : s.iend = some r) (f : IendRec → Word) : s.ofIend f = f r := by
  unfold State.ofIend; rw [h]; rfl

theorem freqWord_of_find {i n : Nat} (h : Table.find s.freq i = some n) : s.freqWord i = low32 n := by
  unfold State.freqWord; rw [h]; rfl

theorem freqWord_of_none {i : Nat} (h : Table.find s.freq i = none) : s.freqWord i = 0 := by
  unfold State.freqWord; rw [h]; rfl

/-- `CRC_VALUE` is the complement of the accumulator (R36). -/
theorem crcValue_eq_not (s : State) : s.regValue .crcValue = ~~~s.crcState := BitVec.xor_allOnes

/-- The reserved places of the map (R22, R23). -/
theorem regAt_reserved {n : Nat} (h : (0x0D ≤ n ∧ n ≤ 0x0F) ∨ (0x2D ≤ n ∧ n ≤ 0x2F) ∨ 0x34 ≤ n) :
    regAt n = .reserved := by
  unfold regAt
  split
  case h_47 => rfl
  all_goals omega

/-! ### Write, then read -/

theorem runSteps_succ {n : Nat} (h : step s = .next t) : runSteps (n + 1) s = runSteps n t := by
  simp only [runSteps, h]

/-- The first access of a script, and the rest of it from where that leaves the block. -/
theorem runScript_cons {op : HostOp} {ops : List HostOp} (h : hostAccess op { s with script := ops } = .next u)
    (hu : u.script = ops) : runScript (op :: ops) s = runScript ops u := by
  have hstep : step { s with script := op :: ops } = .next u := (step_cons rfl).trans h
  subst hu
  exact runSteps_succ hstep

theorem runScript_nil (s : State) : runScript [] s = .next { s with script := [] } := rfl

theorem regStore_script (s : State) (r : Reg) (v : Word) : (s.regStore r v).script = s.script := by cases r <;> rfl

theorem regStore_reads (s : State) (r : Reg) (v : Word) : (s.regStore r v).reads = s.reads := by cases r <;> rfl

theorem regValue_script (s : State) (ops : List HostOp) (r : Reg) :
    { s with script := ops }.regValue r = s.regValue r := by cases r <;> rfl

/-- A script that stores a register and reads it back returns what the register then reads as. -/
theorem runScript_store_read {off : Nat} {r : Reg} (h : regOfOffset off = some r) (hr : r ≠ .cmd) (v : Word)
    (s : State) : ∃ t, runScript [.regWrite off v, .regRead off] s = .next t ∧
      t.reads = s.reads ++ [({ s with script := [.regRead off] }.regStore r v).regValue r] := by
  rw [runScript_cons (hostAccess_store h hr v _) (regStore_script _ _ _)]
  refine ⟨_, (runScript_cons (hostAccess_regRead h _) rfl).trans (runScript_nil _), ?_⟩
  change State.reads _ ++ [_] = _
  rw [regValue_script]
  exact congrArg (· ++ [_]) (regStore_reads _ r v)

end Sys2Proof.Machine

open Sys2Proof Sys2Proof.Machine

/-- Settles O50: a read is `logRead`, and its value is the register's, the record's or the cell's. -/
theorem readsChangeNothing : Obligations.ReadsChangeNothing := by
  refine ⟨fun s t op hop h => ?again, fun s => ⟨?plain, ?reserved, ?sig, ?sigNone, ?ihdr, ?ihdrNone, ?idat, ?idatNone,
    ?iend, ?iendNone, ?buf, ?sym, ?freq, ?freqNone, ?node, ?code⟩⟩
  case again =>
    obtain ⟨v, rfl, hagain⟩ := hostAccess_read hop h
    exact ⟨s.logRead_sameBlock v, rfl, v, _, rfl, hagain, List.append_assoc _ _ _⟩
  case plain =>
    simp only [List.forall_mem_cons]
    exact ⟨returns_reg .cmd rfl rfl, returns_reg .status rfl rfl, returns_reg .cfg rfl rfl, returns_reg .arg0 rfl rfl,
      returns_reg .arg1 rfl rfl, returns_reg .buflen rfl rfl, returns_reg .symlen rfl rfl,
      returns_reg .errinfo rfl rfl, returns_reg .crcState rfl rfl, returns_reg .crcValue rfl (crcValue_eq_not s),
      returns_reg .adlerA rfl rfl, returns_reg .adlerB rfl rfl, returns_reg .adlerValue rfl rfl,
      returns_reg .poff rfl rfl, returns_reg .pcons rfl rfl, returns_reg .pstat rfl rfl, returns_reg .hstat rfl rfl,
      returns_reg .hnsym rfl rfl, returns_reg .hroot rfl rfl, returns_reg .hnnode rfl rfl, List.forall_mem_nil _⟩
  case reserved =>
    intro off hdvd hoff
    exact returns_offset hdvd (by omega) rfl (by rw [regAt_reserved (by omega)]; rfl)
  case sig =>
    intro b0 b1 b2 b3 b4 b5 b6 b7 h
    exact ⟨returns_reg .sigHi rfl (by unfold State.regValue; rw [h]; rfl),
      returns_reg .sigLo rfl (by unfold State.regValue; rw [h]; rfl)⟩
  case sigNone =>
    intro h
    simp only [List.forall_mem_cons]
    exact ⟨returns_offset rfl (by decide) rfl (sigViews_of_none h (by decide) (by decide)),
      returns_offset rfl (by decide) rfl (sigViews_of_none h (by decide) (by decide)), List.forall_mem_nil _⟩
  case ihdr =>
    intro r h
    simp only [List.forall_mem_cons]
    exact ⟨returns_reg .ihdrOff rfl (ofIhdr_some h _), returns_reg .ihdrLen rfl (ofIhdr_some h _),
      returns_reg .ihdrType rfl (ofIhdr_some h _), returns_reg .ihdrWidth rfl (ofIhdr_some h _),
      returns_reg .ihdrHeight rfl (ofIhdr_some h _), returns_reg .ihdrBitdepth rfl (ofIhdr_some h _),
      returns_reg .ihdrColor rfl (ofIhdr_some h _), returns_reg .ihdrComp rfl (ofIhdr_some h _),
      returns_reg .ihdrFilter rfl (ofIhdr_some h _), returns_reg .ihdrInterlace rfl (ofIhdr_some h _),
      returns_reg .ihdrCrc rfl (ofIhdr_some h _), returns_reg .ihdrCrcCalc rfl (ofIhdr_some h _), List.forall_mem_nil _⟩
  case ihdrNone =>
    intro h off hdvd hlo hhi
    exact returns_offset hdvd (by omega) rfl (ihdrViews_of_none h (by omega) (by omega))
  case idat =>
    intro r h
    simp only [List.forall_mem_cons]
    exact ⟨returns_reg .idatOff rfl (ofIdat_some h _), returns_reg .idatLen rfl (ofIdat_some h _),
      returns_reg .idatType rfl (ofIdat_some h _), returns_reg .idatDataOff rfl (ofIdat_some h _),
      returns_reg .idatCrc rfl (ofIdat_some h _), returns_reg .idatCrcCalc rfl (ofIdat_some h _),
      returns_reg .idatChunkLen rfl (ofIdat_some h _), List.forall_mem_nil _⟩
  case idatNone =>
    intro h off hdvd hlo hhi
    exact returns_offset hdvd (by omega) rfl (idatViews_of_none h (by omega) (by omega))
  case iend =>
    intro r h
    simp only [List.forall_mem_cons]
    exact ⟨returns_reg .iendOff rfl (ofIend_some h _), returns_reg .iendLen rfl (ofIend_some h _),
      returns_reg .iendType rfl (ofIend_some h _), returns_reg .iendCrc rfl (ofIend_some h _),
      returns_reg .iendCrcCalc rfl (ofIend_some h _), List.forall_mem_nil _⟩
  case iendNone =>
    intro h off hdvd hlo hhi
    exact returns_offset hdvd (by omega) rfl (iendViews_of_none h (by omega) (by omega))
  case buf => exact fun i hi => ⟨_, if_pos hi, rfl⟩
  case sym => exact fun i hi => ⟨_, if_pos hi, rfl⟩
  case freq => exact fun i n hi h => ⟨_, if_pos hi, by rw [freqWord_of_find h]; rfl⟩
  case freqNone => exact fun i hi h => ⟨_, if_pos hi, by rw [freqWord_of_none h]; rfl⟩
  case node => exact fun k hk => ⟨_, if_pos hk, rfl⟩
  case code => exact fun k hk => ⟨_, if_pos hk, rfl⟩

/-- Settles O51: a store, then a read of the register it stored. -/
theorem writtenRegisterReadsBack : Obligations.WrittenRegisterReadsBack := by
  refine fun s v _ => ⟨fun off hoff => ?_, runScript_store_read (r := .cfg) rfl (by decide) v s, ?_, ?_,
    fun off hdvd hoff => ?_⟩
  · obtain rfl | rfl | rfl := hoff
    · exact runScript_store_read (r := .arg0) rfl (by decide) v s
    · exact runScript_store_read (r := .arg1) rfl (by decide) v s
    · exact runScript_store_read (r := .poff) rfl (by decide) v s
  · obtain ⟨t, ht, hreads⟩ := runScript_store_read (r := .buflen) (off := 0x14) rfl (by decide) v s
    exact ⟨t, _, ht, hreads, low32_toNat_le (w := v) (Nat.min_le_left _ _)⟩
  · obtain ⟨t, ht, hreads⟩ := runScript_store_read (r := .symlen) (off := 0x18) rfl (by decide) v s
    exact ⟨t, _, ht, hreads, low32_toNat_le (w := v) (Nat.min_le_left _ _)⟩
  · have hreg := regOfOffset_inside (off := off) ⟨hdvd, by omega⟩
    rw [regAt_reserved (by omega)] at hreg
    exact runScript_store_read hreg (by decide) v s

end

section
/-! The tree of `HUFF_TREE` (R202 to R209): what a merge keeps, the invariant of the merging, and O38. -/

namespace Sys2Proof.Machine

variable {s t : State}

/-! ### Merging as an induction -/

/-- The node table after a merge of `f` and `g` (R204). -/
def mergeNodes (nodes : List HNode) (f g : Live) : List HNode :=
  nodes ++ [.internal (f.weight + g.weight) f.index g.index]

/-- The live set after a merge of `f` and `g` with `rest` left (R204). -/
def mergeLive (nodes : List HNode) (f g : Live) (rest : List Live) : List Live :=
  ⟨f.weight + g.weight, nodes.length⟩ :: rest

/-- What holds of the leaves, whatever the order of the live set, and is kept by the merge of its two lightest members
holds of the tree. -/
theorem mergeAll_induction {P : List HNode → List Live → Prop}
    (hperm : ∀ {nodes live live'}, List.Perm live live' → P nodes live → P nodes live')
    (hstep : ∀ {nodes f g rest}, (∀ z ∈ g :: rest, lighter z f = false) → (∀ z ∈ rest, lighter z g = false) →
      P nodes (f :: g :: rest) → P (mergeNodes nodes f g) (mergeLive nodes f g rest)) (rounds : Nat) :
    ∀ {nodes live}, P nodes live → P (mergeAll rounds nodes live).1 (mergeAll rounds nodes live).2 := by
  induction rounds with
  | zero => exact fun h => h
  | succ rounds ih =>
    rintro nodes (_ | ⟨x, _ | ⟨y, live⟩⟩) h
    · exact h
    · exact h
    · obtain ⟨f, g, rest, -, hp, hf, hg, he⟩ := mergeAll_succ rounds nodes x y live
      rw [he]
      exact ih (hstep hf hg (hperm hp.symm h))

/-- Each merge takes one from the live set, so as many rounds as it has members leave one (R205). -/
theorem mergeAll_ends (rounds : Nat) : ∀ {nodes live}, live ≠ [] → live.length ≤ rounds + 1 →
    ∃ root, (mergeAll rounds nodes live).2 = [root] := by
  induction rounds with
  | zero =>
    intro nodes live hne hlen
    obtain ⟨root, rfl⟩ := List.length_eq_one_iff.1 (le_antisymm hlen (List.length_pos_iff.2 hne))
    exact ⟨root, rfl⟩
  | succ rounds ih =>
    rintro nodes (_ | ⟨x, _ | ⟨y, live⟩⟩) hne hlen
    · exact absurd rfl hne
    · exact ⟨x, rfl⟩
    · obtain ⟨f, g, rest, -, hp, -, -, he⟩ := mergeAll_succ rounds nodes x y live
      have hl := hp.length_eq
      simp only [List.length_cons] at hl hlen
      rw [he]
      exact ih (List.cons_ne_nil _ _) (by simp only [List.length_cons]; omega)

/-- Each merge adds one node (R205). -/
theorem mergeAll_length (rounds : Nat) (nodes : List HNode) (live : List Live) :
    (mergeAll rounds nodes live).1.length + (mergeAll rounds nodes live).2.length = nodes.length + live.length := by
  refine mergeAll_induction (P := fun ns l => ns.length + l.length = nodes.length + live.length)
    (fun hp h => by rw [← hp.length_eq]; exact h) (fun {ns f g rest} _ _ h => ?_) rounds rfl
  simp only [mergeNodes, mergeLive, List.length_append, List.length_cons, List.length_nil] at h ⊢
  omega

/-! ### The nodes after a merge -/

theorem weightAt_append_left {ns ms : List HNode} {k : Nat} (h : k < ns.length) :
    weightAt (ns ++ ms) k = weightAt ns k := by
  unfold weightAt; rw [List.getElem?_append_left h]

theorem weightAt_mergeNodes_old {ns : List HNode} {f g : Live} {k : Nat} (h : k < ns.length) :
    weightAt (mergeNodes ns f g) k = weightAt ns k := weightAt_append_left h

theorem weightAt_mergeNodes_new (ns : List HNode) (f g : Live) :
    weightAt (mergeNodes ns f g) ns.length = f.weight + g.weight := by
  unfold weightAt mergeNodes; rw [List.getElem?_concat_length]; rfl

theorem mergeNodes_length (ns : List HNode) (f g : Live) : (mergeNodes ns f g).length = ns.length + 1 :=
  List.length_append

/-- The new node is the parent of the two it merges, and no other parent changes. -/
theorem childOf_mergeNodes {ns : List HNode} {f g : Live} {k p : Nat} :
    childOf (mergeNodes ns f g) k p ↔ childOf ns k p ∨ p = ns.length ∧ (k = f.index ∨ k = g.index) := by
  unfold childOf mergeNodes
  rcases Nat.lt_trichotomy p ns.length with hp | rfl | hp
  · rw [List.getElem?_append_left hp]
    simp [hp.ne]
  · simp [eq_comm]
  · rw [List.getElem?_eq_none (by simpa using hp), List.getElem?_eq_none hp.le]
    simp [hp.ne']

/-! ### The invariant of the merging -/

/-- What holds between the merges of a tree with `n` leaves of total weight `total`: the live nodes are those without a
parent, all others have one (R49); the live weights add up to the total (R209); and no internal node outweighs a later
one, nor any two live nodes, which the next merge may take. -/
structure MergeInv (n total : Nat) (nodes : List HNode) (live : List Live) : Prop where
  live_lt : ∀ x ∈ live, x.index < nodes.length
  live_weight : ∀ x ∈ live, weightAt nodes x.index = x.weight
  live_nodup : (live.map Live.index).Nodup
  live_sum : (live.map Live.weight).sum = total
  child_lt : ∀ k p, childOf nodes k p → k < nodes.length
  free : ∀ x ∈ live, ∀ p, ¬ childOf nodes x.index p
  owned : ∀ k, k < nodes.length → k ∉ live.map Live.index → ∃ p, childOf nodes k p ∧ ∀ q, childOf nodes k q → q = p
  weights : ∀ k, k < nodes.length → 1 ≤ weightAt nodes k ∧ weightAt nodes k ≤ total
  rising : ∀ p q, n ≤ p → p ≤ q → q < nodes.length → weightAt nodes p ≤ weightAt nodes q
  below_pairs : ∀ p, n ≤ p → p < nodes.length → live.Pairwise fun x y => weightAt nodes p ≤ x.weight + y.weight

variable {n total : Nat} {nodes : List HNode} {live rest : List Live} {f g : Live}

theorem MergeInv.perm {live' : List Live} (hp : live.Perm live') (h : MergeInv n total nodes live) :
    MergeInv n total nodes live' where
  live_lt x hx := h.live_lt x (hp.mem_iff.2 hx)
  live_weight x hx := h.live_weight x (hp.mem_iff.2 hx)
  live_nodup := (hp.map _).nodup_iff.1 h.live_nodup
  live_sum := ((hp.map _).sum_eq).symm.trans h.live_sum
  child_lt := h.child_lt
  free x hx := h.free x (hp.mem_iff.2 hx)
  owned k hk hnot := h.owned k hk fun hmem => hnot ((hp.map _).mem_iff.1 hmem)
  weights := h.weights
  rising := h.rising
  below_pairs p h1 h2 := (h.below_pairs p h1 h2).perm hp fun hxy => by rwa [Nat.add_comm]

theorem not_lighter_le {x y : Live} (h : lighter x y = false) : y.weight ≤ x.weight := by
  have hn : ¬ (x.weight < y.weight ∨ x.weight = y.weight ∧ x.index < y.index) := by
    rw [← lighter_iff, h]; decide
  omega

/-- A node of the table after a merge is an old one or the new one. -/
theorem lt_mergeNodes_iff {k : Nat} : k < (mergeNodes nodes f g).length ↔ k < nodes.length ∨ k = nodes.length := by
  rw [mergeNodes_length]; omega

/-- The two merged nodes have no parent but the new one, and every node off the live set has one. -/
theorem MergeInv.owned_merge (h : MergeInv n total nodes (f :: g :: rest)) {k : Nat}
    (hk : k < (mergeNodes nodes f g).length) (hnot : k ∉ (mergeLive nodes f g rest).map Live.index) :
    ∃ p, childOf (mergeNodes nodes f g) k p ∧ ∀ q, childOf (mergeNodes nodes f g) k q → q = p := by
  obtain ⟨hnew, hrest⟩ : k ≠ nodes.length ∧ k ∉ rest.map Live.index := by
    simpa only [mergeLive, List.map_cons, List.mem_cons, not_or] using hnot
  have hlt : k < nodes.length := (lt_mergeNodes_iff.1 hk).resolve_right hnew
  by_cases hfg : k = f.index ∨ k = g.index
  · refine ⟨nodes.length, childOf_mergeNodes.2 (.inr ⟨rfl, hfg⟩), fun q hq => ?_⟩
    obtain hq | ⟨rfl, -⟩ := childOf_mergeNodes.1 hq
    · obtain rfl | rfl := hfg
      · exact absurd hq (h.free f (by simp) q)
      · exact absurd hq (h.free g (by simp) q)
    · rfl
  · obtain ⟨p, hp, huniq⟩ := h.owned k hlt (by
      simp only [List.map_cons, List.mem_cons]
      exact fun hm => hfg (hm.imp_right fun hm => hm.resolve_right hrest))
    refine ⟨p, childOf_mergeNodes.2 (.inl hp), fun q hq => huniq q ?_⟩
    exact (childOf_mergeNodes.1 hq).resolve_right fun hq => hfg hq.2

/-- The new node and the live nodes that are left have no parent. -/
theorem MergeInv.free_merge (h : MergeInv n total nodes (f :: g :: rest)) {x : Live}
    (hx : x ∈ mergeLive nodes f g rest) (p : Nat) : ¬ childOf (mergeNodes nodes f g) x.index p := by
  intro hc
  have hf := h.live_lt f (by simp)
  have hg := h.live_lt g (by simp)
  rcases List.mem_cons.1 hx with rfl | hx
  · obtain hc | ⟨-, hc⟩ := childOf_mergeNodes.1 hc
    · exact absurd (h.child_lt _ _ hc) (lt_irrefl _)
    · rcases hc with hc | hc <;> dsimp only at hc <;> omega
  · obtain hc | ⟨-, hc⟩ := childOf_mergeNodes.1 hc
    · exact h.free x (by simp [hx]) p hc
    · have hnd := h.live_nodup
      simp only [List.map_cons, List.nodup_cons, List.mem_cons, not_or] at hnd
      obtain ⟨⟨-, hfr⟩, hgr, -⟩ := hnd
      have hm := List.mem_map_of_mem (f := Live.index) hx
      rcases hc with hc | hc <;> rw [hc] at hm
      · exact hfr hm
      · exact hgr hm

/-- The merge of the two lightest keeps the invariant. -/
theorem MergeInv.step (hf : ∀ z ∈ g :: rest, lighter z f = false) (hg : ∀ z ∈ rest, lighter z g = false)
    (h : MergeInv n total nodes (f :: g :: rest)) :
    MergeInv n total (mergeNodes nodes f g) (mergeLive nodes f g rest) := by
  have hfl := h.live_lt f (by simp)
  have hgl := h.live_lt g (by simp)
  have hfw := h.live_weight f (by simp)
  have hgw := h.live_weight g (by simp)
  have hrest : ∀ x ∈ rest, x ∈ f :: g :: rest := fun x hx => by simp [hx]
  have hsum : f.weight + (g.weight + (rest.map Live.weight).sum) = total := h.live_sum
  constructor
  case live_lt =>
    intro x hx
    rcases List.mem_cons.1 hx with rfl | hx
    · exact lt_mergeNodes_iff.2 (.inr rfl)
    · exact lt_mergeNodes_iff.2 (.inl (h.live_lt x (hrest x hx)))
  case live_weight =>
    intro x hx
    rcases List.mem_cons.1 hx with rfl | hx
    · exact weightAt_mergeNodes_new nodes f g
    · rw [weightAt_mergeNodes_old (h.live_lt x (hrest x hx)), h.live_weight x (hrest x hx)]
  case live_nodup =>
    have hnd := h.live_nodup
    simp only [List.map_cons, List.nodup_cons] at hnd
    obtain ⟨-, -, hnd⟩ := hnd
    refine List.nodup_cons.2 ⟨fun hm => ?_, hnd⟩
    obtain ⟨x, hx, he⟩ := List.mem_map.1 hm
    exact absurd he (h.live_lt x (hrest x hx)).ne
  case live_sum => simp only [mergeLive, List.map_cons, List.sum_cons]; omega
  case child_lt =>
    intro k p hc
    rcases childOf_mergeNodes.1 hc with hc | ⟨-, rfl | rfl⟩
    · exact lt_mergeNodes_iff.2 (.inl (h.child_lt k p hc))
    · exact lt_mergeNodes_iff.2 (.inl hfl)
    · exact lt_mergeNodes_iff.2 (.inl hgl)
  case free => exact fun x hx => h.free_merge hx
  case owned => exact fun k => h.owned_merge
  case weights =>
    intro k hk
    rcases lt_mergeNodes_iff.1 hk with hk | rfl
    · rw [weightAt_mergeNodes_old hk]; exact h.weights k hk
    · have hone := (h.weights f.index hfl).1
      rw [weightAt_mergeNodes_new]
      omega
  case rising =>
    intro p q hp hpq hq
    rcases lt_mergeNodes_iff.1 hq with hq | rfl
    · rw [weightAt_mergeNodes_old hq, weightAt_mergeNodes_old (lt_of_le_of_lt hpq hq)]
      exact h.rising p q hp hpq hq
    · rcases hpq.lt_or_eq with hlt | rfl
      · rw [weightAt_mergeNodes_old hlt, weightAt_mergeNodes_new]
        exact (List.pairwise_cons.1 (h.below_pairs p hp hlt)).1 g (by simp)
      · exact le_rfl
  case below_pairs =>
    intro p hp hlt
    -- No node outweighs the new one, and the new one outweighs no two of the rest, which are no lighter than `f`, `g`.
    have hle : weightAt (mergeNodes nodes f g) p ≤ f.weight + g.weight := by
      rcases lt_mergeNodes_iff.1 hlt with hlt | rfl
      · rw [weightAt_mergeNodes_old hlt]
        exact (List.pairwise_cons.1 (h.below_pairs p hp hlt)).1 g (by simp)
      · exact (weightAt_mergeNodes_new nodes f g).le
    refine List.pairwise_cons.2 ⟨fun z _ => by dsimp only; omega, List.pairwise_of_forall_mem_list fun x hx y hy => ?_⟩
    have hfx := not_lighter_le (hf x (by simp [hx]))
    have hgy := not_lighter_le (hg y hy)
    omega

/-! ### The leaves -/

/-- The live set of the leaves lists each node with its index (R204). -/
theorem liveOf_eq_zipIdx (k : Nat) (xs : List HNode) :
    liveOf k xs = (xs.zipIdx k).map fun p => ⟨p.1.weight, p.2⟩ := by
  induction xs generalizing k with
  | nil => rfl
  | cons x xs ih => rw [liveOf, ih, List.zipIdx_cons, List.map_cons]

theorem liveOf_indices (k : Nat) (xs : List HNode) : (liveOf k xs).map Live.index = List.range' k xs.length := by
  rw [liveOf_eq_zipIdx, List.map_map]
  exact List.zipIdx_map_snd k xs

theorem liveOf_weights (k : Nat) (xs : List HNode) : (liveOf k xs).map Live.weight = xs.map HNode.weight := by
  induction xs generalizing k with
  | nil => rfl
  | cons x xs ih => rw [liveOf, List.map_cons, ih, List.map_cons]

theorem liveOf_length (k : Nat) (xs : List HNode) : (liveOf k xs).length = xs.length := by
  rw [liveOf_eq_zipIdx, List.length_map, List.length_zipIdx]

/-- A member of the live set of the leaves is a node with its weight. -/
theorem mem_liveOf {xs : List HNode} {x : Live} (h : x ∈ liveOf 0 xs) :
    x.index < xs.length ∧ weightAt xs x.index = x.weight := by
  rw [liveOf_eq_zipIdx] at h
  obtain ⟨⟨y, i⟩, hm, rfl⟩ := List.mem_map.1 h
  have hget : xs[i]? = some y := List.mem_zipIdx_iff_getElem?.1 hm
  obtain ⟨hlt, -⟩ := List.getElem?_eq_some_iff.1 hget
  exact ⟨hlt, by unfold weightAt; rw [hget]; rfl⟩

theorem leavesOf_length (freq : Table Nat) : (leavesOf freq).length = freq.length := List.length_map _

theorem leavesOf_weights (freq : Table Nat) : (leavesOf freq).map HNode.weight = freq.map Prod.snd := by
  unfold leavesOf; rw [List.map_map]; rfl

/-- Leaves have no children (R49). -/
theorem not_childOf_leavesOf (freq : Table Nat) (k p : Nat) : ¬ childOf (leavesOf freq) k p := by
  rintro ⟨w, l, r, h, -⟩
  obtain ⟨c, -, hc⟩ := List.mem_map.1 (List.mem_of_getElem? h)
  cases hc

/-- The weight of a leaf is a count of the table (R202). -/
theorem weightAt_leavesOf {freq : Table Nat} {k : Nat} (h : k < (leavesOf freq).length) :
    weightAt (leavesOf freq) k ∈ freq.map Prod.snd := by
  have hw : weightAt (leavesOf freq) k = ((leavesOf freq)[k]).weight := by
    unfold weightAt; rw [List.getElem?_eq_getElem h]; rfl
  rw [hw, ← leavesOf_weights]
  exact List.mem_map_of_mem (List.getElem_mem h)

/-- The invariant before the first merge (R202). -/
theorem mergeInv_leaves {freq : Table Nat} (h : ∀ c ∈ freq.map Prod.snd, 1 ≤ c) :
    MergeInv freq.length (freq.map Prod.snd).sum (leavesOf freq) (liveOf 0 (leavesOf freq)) where
  live_lt x hx := (mem_liveOf hx).1
  live_weight x hx := (mem_liveOf hx).2
  live_nodup := by rw [liveOf_indices]; exact List.nodup_range'
  live_sum := by rw [liveOf_weights, leavesOf_weights]
  child_lt k p hc := absurd hc (not_childOf_leavesOf freq k p)
  free x _ p := not_childOf_leavesOf freq x.index p
  owned k hk hnot := by
    rw [liveOf_indices] at hnot
    exact absurd (List.mem_range'_1.2 ⟨Nat.zero_le k, by omega⟩) hnot
  weights k hk := ⟨h _ (weightAt_leavesOf hk), List.le_sum_of_mem (weightAt_leavesOf hk)⟩
  rising p q hp hpq hq := by rw [leavesOf_length] at hq; omega
  below_pairs p hp hlt := by rw [leavesOf_length] at hlt; omega

/-! ### The tree -/

/-- The tree of some counts: `2n - 1` nodes (R205), and what the merging has kept, with the root alone left. -/
theorem buildTree_inv {freq : Table Nat} (hne : freq ≠ []) (h : ∀ c ∈ freq.map Prod.snd, 1 ≤ c) :
    ∃ root, (buildTree freq).2 = root.index ∧ (buildTree freq).1.length = 2 * freq.length - 1 ∧
      MergeInv freq.length (freq.map Prod.snd).sum (buildTree freq).1 [root] := by
  have hpos := List.length_pos_iff.2 hne
  have hlive : (liveOf 0 (leavesOf freq)).length = freq.length := by rw [liveOf_length, leavesOf_length]
  obtain ⟨root, hroot⟩ := mergeAll_ends (leavesOf freq).length (nodes := leavesOf freq)
    (live := liveOf 0 (leavesOf freq)) (List.length_pos_iff.1 (by omega)) (by rw [hlive, leavesOf_length]; omega)
  have hinv := mergeAll_induction (P := MergeInv freq.length (freq.map Prod.snd).sum) MergeInv.perm MergeInv.step
    (leavesOf freq).length (mergeInv_leaves h)
  have hlen := mergeAll_length (leavesOf freq).length (leavesOf freq) (liveOf 0 (leavesOf freq))
  rw [hroot, hlive, List.length_singleton] at hlen
  have hleaves := leavesOf_length freq
  rw [hroot] at hinv
  refine ⟨root, ?_, ?_, hinv⟩
  · unfold buildTree; dsimp only; rw [hroot]; rfl
  · unfold buildTree; dsimp only; omega

theorem countSymbols_length (syms : List Byte) : (countSymbols syms).length ≤ 256 :=
  (List.length_filterMap_le _ _).trans List.length_range.le

/-- What `HUFF_TREE` leaves when it ends without error (R206). -/
theorem execHuffTree_ok (h : exec .huffTree s = .next t) (hok : t.status.err = .ok) :
    s.symlen ≠ 0 ∧ t.freq = countSymbols s.symbols ∧ t.node = (buildTree (countSymbols s.symbols)).1 ∧
      t.hroot = low32 (buildTree (countSymbols s.symbols)).2 ∧ t.hnsym = low32 (countSymbols s.symbols).length := by
  change s.huffTreeBody.close = .next t at h
  obtain ⟨-, he⟩ | ⟨hne, freq, rfl, he⟩ := s.huffTreeBody_cases <;> rw [he] at h <;> cases h
  · cases hok
  · exact ⟨hne, rfl, rfl, rfl, rfl⟩

end Sys2Proof.Machine

open Sys2Proof Sys2Proof.Machine

/-- Settles O38, from the invariant of the merging with the root alone left live. -/
theorem treeOwnershipAndWeights : Obligations.TreeOwnershipAndWeights := by
  intro s t h hok
  obtain ⟨hne, -, hnode, hhroot, hhnsym⟩ := execHuffTree_ok h hok
  have hcount : ∀ c ∈ (countSymbols s.symbols).map Prod.snd, 1 ≤ c := by
    intro c hc
    obtain ⟨p, hp, rfl⟩ := List.mem_map.1 hc
    obtain ⟨-, hpos, -⟩ := mem_countSymbols.1 hp
    exact Nat.one_le_iff_ne_zero.2 hpos
  obtain ⟨root, hroot, hlen, hinv⟩ := buildTree_inv (countSymbols_ne_nil (State.symbols_ne_nil hne)) hcount
  rw [sum_countSymbols, s.symbols_length, ← hnode] at hinv
  have hle := countSymbols_length s.symbols
  have hlt := hinv.live_lt root (by simp)
  rw [← hnode] at hlen
  have hrootNat : t.hroot.toNat = root.index := by
    rw [hhroot, hroot]; exact low32_toNat (by omega)
  have hnsymNat : t.hnsym.toNat = (countSymbols s.symbols).length := by
    rw [hhnsym]; exact low32_toNat (by omega)
  have hsum : root.weight = s.symlen.toNat := by simpa using hinv.live_sum
  rw [hrootNat, hnsymNat]
  refine ⟨fun k hk => hinv.owned k (hk.trans hlt) (by simp [hk.ne]), hinv.free root (by simp), ?_, hinv.weights,
    hinv.rising⟩
  rw [hinv.live_weight root (by simp), hsum]

end

section
/-! What no command changes (R75, R257): O8. -/

open Sys2Proof Sys2Proof.Machine

/-- Settles O8: every command keeps the frame of its unit, and each of the five frames holds the inputs (`exec_inputs`). -/
theorem commandsKeepInputs : Obligations.CommandsKeepInputs := fun _ _ _ h => exec_inputs h

end

section
/-! Which words are legal (R101, R105), and the decoder against that check: O1, O2, O3. -/

namespace Sys2Proof

/-- The opcode map answers on the 18 opcodes of R102, whatever the immediate. -/
theorem ofOpcode_of_known {op : Byte} (h : WellFormed.opcodes.contains op.toNat = true) (imm : Byte) :
    ∃ i, ofOpcode op imm = some i := by
  unfold ofOpcode
  split
  case h_19 => simp_all [WellFormed.opcodes]
  all_goals exact ⟨_, rfl⟩

/-- The rows of R102 with an immediate are those of the two opcodes. -/
theorem takesImm_eq_contains (i : Instr) : takesImm i = WellFormed.immOpcodes.contains (matchOf i).toNat := by
  cases i <;> rfl

/-- The check of R101, said of the three fields the decoder reads. -/
theorem legalWord_iff_fields {w : Word} : WellFormed.legalWord w = true ↔
    rsvField w = 0 ∧ WellFormed.opcodes.contains (opField w).toNat = true ∧
      (WellFormed.immOpcodes.contains (opField w).toNat = true ∨ immField w = 0) := by
  have hop : (opField w).toNat = w.toNat % 2 ^ 8 := by
    rw [opField, BitVec.extractLsb'_toNat, Nat.shiftRight_zero]
  have himm : immField w = 0 ↔ w.toNat / 2 ^ 8 % 2 ^ 8 = 0 := by
    rw [← BitVec.toNat_inj, immField, BitVec.extractLsb'_toNat, Nat.shiftRight_eq_div_pow]; rfl
  have hrsv : rsvField w = 0 ↔ w.toNat / 2 ^ 16 = 0 := by
    rw [← BitVec.toNat_inj, rsvField, BitVec.extractLsb'_toNat, Nat.shiftRight_eq_div_pow,
      Nat.mod_eq_of_lt (by have := w.isLt; omega)]; rfl
  rw [hop, himm, hrsv]
  unfold WellFormed.legalWord WellFormed.rsvZero WellFormed.opcodeKnown WellFormed.immAllowed
  simp only [Bool.and_eq_true, Bool.or_eq_true, beq_iff_eq, and_assoc]

theorem legalWord_encode (i : Instr) : WellFormed.legalWord (encode i) = true := by
  cases i
  case crcByte b => exact (Laws.EncodedLegal.crcByte b).1
  case adlerByte b => exact (Laws.EncodedLegal.adlerByte b).1
  all_goals decide

/-- A legal word decodes to a command. -/
theorem decodeWord_of_legalWord {w : Word} (h : WellFormed.legalWord w = true) : ∃ i, decodeWord w = .legal i := by
  obtain ⟨hrsv, hknown, himm⟩ := legalWord_iff_fields.1 h
  obtain ⟨i, hi⟩ := ofOpcode_of_known hknown (immField w)
  obtain ⟨hop, -⟩ := Machine.ofOpcode_some hi
  have htakes : takesImm i = true ∨ immField w = 0 := by rwa [takesImm_eq_contains, ← hop]
  refine ⟨i, ?_⟩
  unfold decodeWord
  rw [if_neg (not_not.2 hrsv), hi]
  exact if_pos htakes

/-- The decoder accepts exactly the legal words (R101, R105). -/
theorem legalWord_iff_decodes {w : Word} : WellFormed.legalWord w = true ↔ ∃ i, decodeWord w = .legal i := by
  refine ⟨decodeWord_of_legalWord, ?_⟩
  rintro ⟨i, hi⟩
  rw [Machine.encode_of_decodeWord hi]
  exact legalWord_encode i

end Sys2Proof

open Sys2Proof Sys2Proof.Machine

/-- Settles O1: the decoder reads back every encoding, and what it accepts is the encoding of what it answers. -/
theorem decodeIffEncode : Obligations.DecodeIffEncode := fun _ i =>
  ⟨encode_of_decodeWord, fun h => h ▸ decodeWord_encode i⟩

/-- Settles O2, by `legalWord_iff_decodes`. -/
theorem legalWordSelectsOneCommand : Obligations.LegalWordSelectsOneCommand := by
  refine fun w => ⟨fun h => ?_, fun h => ?_⟩
  · obtain ⟨i, hi⟩ := decodeWord_of_legalWord h
    exact ⟨i, hi, fun j hj => Decoded.legal.inj (hj.symm.trans hi)⟩
  · cases hd : decodeWord w with
    | legal i => exact absurd (legalWord_iff_decodes.2 ⟨i, hd⟩) (by rw [h]; decide)
    | illegal why => exact ⟨why, rfl⟩

/-- Settles O3, word by word: the fields of each are read off by evaluation. -/
theorem exampleWordsDecode : Obligations.ExampleWordsDecode := by
  refine ⟨?_, ?_, ?_, ?_, ?_, ?_, ?_⟩ <;> decide

end

section
/-! Running scripts access by access (R107, R292, log 1), and the two checksum pseudo-operations: O57. -/

namespace Sys2Proof.Machine

variable {s t : State} {off : Nat} {r : Reg} {ops : List HostOp}

/-! ### One access of a script -/

/-- An access that leaves `t`, whatever the script it is taken from. -/
theorem runScript_access {op : HostOp} (h : hostAccess op { s with script := ops } = .next { t with script := ops }) :
    runScript (op :: ops) s = runScript ops t :=
  (runScript_cons h rfl).trans rfl

theorem runScript_store (h : regOfOffset off = some r) (hr : r ≠ .cmd) (v : Word) (s : State) :
    runScript (.regWrite off v :: ops) s = runScript ops (s.regStore r v) :=
  runScript_access ((hostAccess_store h hr v _).trans (by cases r <;> rfl))

theorem runScript_read (h : regOfOffset off = some r) (s : State) :
    runScript (.regRead off :: ops) s = runScript ops (s.logRead (s.regValue r)) :=
  runScript_access ((hostAccess_regRead h _).trans (by rw [regValue_script]; rfl))

/-- A command of a script, from what it leaves with the rest of the script still to come. -/
theorem runScript_cmd {i : Instr} (h : exec i { s with script := ops } = .next t) (ht : t.script = ops) :
    runScript (Script.cmd i :: ops) s = runScript ops t :=
  runScript_cons ((hostAccess_cmd i _).trans h) ht

/-! ### The range commands in a script -/

theorem overRange_of_fits (h : s.fits s.arg0.toNat s.arg1.toNat) (f : List Byte → State) :
    s.overRange f = .next (f (s.bufRange s.arg0.toNat s.arg1.toNat)).finish := if_pos h

section RangeCommand

/-! A range command `i` is `f` of the bytes; `f` leaves the host's side alone, and register `r` then reads as `g` of
the bytes. -/

variable {i : Instr} {f : State → List Byte → State} {g : List Byte → Word}
  (hexec : ∀ u, exec i u = u.overRange (f u)) (hscript : ∀ u bytes, (f u bytes).script = u.script)
  (hreads : ∀ u bytes, (f u bytes).reads = u.reads) (hvalue : ∀ u bytes, (f u bytes).finish.regValue r = g bytes)
include hexec hscript

theorem runScript_rangeCmd (h : s.fits s.arg0.toNat s.arg1.toNat) :
    runScript (Script.cmd i :: ops) s =
      runScript ops (f { s with script := ops } (s.bufRange s.arg0.toNat s.arg1.toNat)).finish := by
  have hbuf : SameBuffer s { s with script := ops } := ⟨rfl, rfl, rfl⟩
  refine runScript_cmd ?_ (hscript _ _)
  rw [hexec, ← hbuf.range]
  exact overRange_of_fits (s := { s with script := ops }) h _

include hreads hvalue

/-- The expansion of R108: the range is stored, the command runs, and the register is read. -/
theorem runScript_rangeOp (hr : regOfOffset off = some r) {addr len : Word} (h : s.fits addr.toNat len.toNat) :
    ∃ t, runScript [.regWrite 0x0C addr, .regWrite 0x10 len, Script.cmd i, .regRead off] s = .next t ∧
      t.reads = s.reads ++ [g (s.bufRange addr.toNat len.toNat)] := by
  let u := (s.regStore .arg0 addr).regStore .arg1 len
  have hbuf : SameBuffer s u := ⟨rfl, rfl, rfl⟩
  have hfits : u.fits u.arg0.toNat u.arg1.toNat := h
  rw [runScript_store (r := .arg0) rfl (by decide), runScript_store (r := .arg1) rfl (by decide),
    runScript_rangeCmd hexec hscript hfits, runScript_read hr, hvalue, runScript_nil, hbuf.range]
  exact ⟨_, rfl, congrArg (· ++ [_]) (hreads _ _)⟩

end RangeCommand

theorem crc32Of_reads {addr len : Word} (h : s.fits addr.toNat len.toNat) :
    ∃ t, runScript (Script.crc32Of addr len) s = .next t ∧
      t.reads = s.reads ++ [crc32 (s.bufRange addr.toNat len.toNat)] :=
  runScript_rangeOp exec_crc32 (fun _ _ => rfl) (fun _ _ => rfl)
    (r := .crcValue) (fun _ _ => (BitVec.xor_assoc _ _ _).trans (by rw [BitVec.xor_self, BitVec.xor_zero])) rfl h

theorem adler32Of_reads {addr len : Word} (h : s.fits addr.toNat len.toNat) :
    ∃ t, runScript (Script.adler32Of addr len) s = .next t ∧
      t.reads = s.reads ++ [adler32 (s.bufRange addr.toNat len.toNat)] :=
  runScript_rangeOp exec_adler32 (fun _ _ => rfl) (fun _ _ => rfl) (r := .adlerValue) (fun _ _ => rfl) rfl h

end Sys2Proof.Machine

open Sys2Proof Sys2Proof.Machine

/-- Settles O57: each pseudo-operation stores the range, runs its command and reads the register it leaves. -/
theorem checksumPseudoOperations : Obligations.ChecksumPseudoOperations :=
  fun _ _ _ h => ⟨crc32Of_reads h, adler32Of_reads h⟩

end

section
/-! Byte sequences that stand in BUF, and what the parser reads of the chunks and the stream they make (R160, R161,
R165, R175). -/

namespace Sys2Proof.Machine

variable {s t : State} {i o : Nat} {tag : Word} {data : List Byte}

/-! ### Bytes in the buffer -/

/-- BUF holds the byte sequence from index `i` on. -/
def State.holds (s : State) (i : Nat) (bytes : List Byte) : Prop := s.bufRange i bytes.length = bytes

theorem State.holds_cons {b : Byte} {bs : List Byte} :
    s.holds i (b :: bs) ↔ s.bufByte i = b ∧ s.holds (i + 1) bs := List.cons_eq_cons

theorem State.holds_append {xs ys : List Byte} :
    s.holds i (xs ++ ys) ↔ s.holds i xs ∧ s.holds (i + xs.length) ys := by
  unfold State.holds
  rw [List.length_append, s.bufRange_append]
  exact ⟨fun h => List.append_inj h (s.bufRange_length _ _), fun ⟨hx, hy⟩ => congrArg₂ _ hx hy⟩

theorem State.holds.congr {bytes : List Byte} (hs : s.holds i bytes) (h : t.bufByte = s.bufByte) : t.holds i bytes :=
  (State.bufRange_congr fun a _ _ => congrFun h a).trans hs

/-- The 4-byte form of a word, packed again (R38, R71): each bit comes from the byte it lies in. -/
theorem packBE_bytesBE (v : Word) :
    packBE (v.extractLsb' 24 8) (v.extractLsb' 16 8) (v.extractLsb' 8 8) (v.extractLsb' 0 8) = v := by
  unfold packBE zext
  apply BitVec.eq_of_getLsbD_eq
  intro k hk
  simp only [BitVec.getLsbD_or, BitVec.getLsbD_shiftLeft, BitVec.getLsbD_setWidth, BitVec.getLsbD_extractLsb']
  grind

theorem State.be32_of_holds {v : Word} (h : s.holds i (bytesBE v)) : s.be32 i = v := by
  unfold bytesBE at h
  simp only [State.holds_cons] at h
  obtain ⟨h0, h1, h2, h3, -⟩ := h
  unfold State.be32
  rw [h0, h1, h2, h3]
  exact packBE_bytesBE v

/-! ### Chunks in the buffer -/

theorem bytesBE_length (v : Word) : (bytesBE v).length = 4 := rfl

theorem chunkBytes_length (tag : Word) (data : List Byte) : (chunkBytes tag data).length = 12 + data.length := by
  unfold chunkBytes tagBytes
  simp only [List.length_append, bytesBE_length]
  omega

/-- The four parts of a chunk, as the parser reads them (R160): the trailer is the CRC the parser computes. -/
theorem State.holds_chunk (h : s.holds o (chunkBytes tag data)) :
    s.be32 o = low32 data.length ∧ s.be32 (o + 4) = tag ∧ s.holds (o + 8) data ∧
      s.be32 (o + 8 + data.length) = s.chunkCrc o data.length := by
  unfold chunkBytes tagBytes at h
  simp only [State.holds_append, List.length_append, bytesBE_length, ← Nat.add_assoc] at h
  obtain ⟨⟨⟨hlen, htag⟩, hdata⟩, hcrc⟩ := h
  have hcovered : s.bufRange (o + 4) (4 + data.length) = bytesBE tag ++ data := by
    have hboth : s.holds (o + 4) (bytesBE tag ++ data) := State.holds_append.2 ⟨htag, hdata⟩
    rwa [State.holds, List.length_append] at hboth
  exact ⟨be32_of_holds hlen, be32_of_holds htag, hdata, (be32_of_holds hcrc).trans (congrArg crc32 hcovered.symm)⟩

theorem readSig_of_holds (hfit : 8 ≤ s.buflen.toNat) (h : s.holds 0 signature) : s.readSig = .ok signature := by
  have hbytes : s.bufRange 0 8 = signature := h
  unfold State.readSig
  rw [hbytes, if_neg (by simpa using hfit)]

/-- An IHDR chunk in the buffer reads as the fields it was made with (R165, R166). -/
theorem readIhdr_of_holds {width height : Word} {bd ct cm fm im : Byte} (hfit : o + 25 ≤ s.buflen.toNat)
    (h : s.holds o (chunkBytes tagIhdr (ihdrData width height bd ct cm fm im))) :
    s.readIhdr o = .ok
      { off := low32 o, len := 13, type := tagIhdr, width := width, height := height, bitdepth := bd, color := ct
        comp := cm, filter := fm, interlace := im, crc := s.chunkCrc o 13, crcCalc := s.chunkCrc o 13 } := by
  obtain ⟨hlen, htag, hdata, hcrc⟩ := State.holds_chunk h
  change s.be32 o = 13 at hlen
  change s.be32 (o + 21) = s.chunkCrc o 13 at hcrc
  unfold ihdrData at hdata
  simp only [State.holds_append, State.holds_cons, List.length_append, bytesBE_length, Nat.add_assoc,
    Nat.reduceAdd] at hdata
  obtain ⟨⟨hwidth, hheight⟩, hbd, hct, hcm, hfm, him, -⟩ := hdata
  unfold State.readIhdr State.fits
  rw [if_neg (by omega), if_neg (not_not.2 hlen), if_neg (by omega), if_neg (not_not.2 htag), if_neg (by omega),
    if_neg (by omega), if_neg (not_not.2 hcrc), htag, hcrc, State.be32_of_holds hwidth, State.be32_of_holds hheight,
    hbd, hct, hcm, hfm, him]

/-- An IDAT chunk in the buffer reads, in both modes, with a matching trailer (R168, R169). -/
theorem readIdat_of_holds (hfit : o + 12 + data.length ≤ s.buflen.toNat) (h : s.holds o (chunkBytes tagIdat data)) :
    s.readIdat o = .ok
      { off := low32 o, len := low32 data.length, type := tagIdat, dataOff := low32 (o + 8)
        crc := s.chunkCrc o data.length, crcCalc := s.chunkCrc o data.length, crcOk := true
        chunkLen := low32 (12 + data.length) } := by
  obtain ⟨hlen, htag, -, hcrc⟩ := State.holds_chunk h
  have hn : (low32 data.length).toNat = data.length := low32_toNat_le (w := s.buflen) (by omega)
  unfold State.readIdat State.fits
  simp only [hlen, hn, htag, hcrc]
  rw [if_neg (by omega), if_neg (by omega), if_neg (by simp), if_neg (by omega), if_neg (by omega), if_neg (by simp),
    beq_self_eq_true]

/-- An IEND chunk in the buffer reads, in both modes, with a matching trailer (R171, R172). -/
theorem readIend_of_holds (hfit : o + 12 ≤ s.buflen.toNat) (h : s.holds o (chunkBytes tagIend [])) :
    s.readIend o = .ok
      { off := low32 o, len := 0, type := tagIend, crc := s.chunkCrc o 0, crcCalc := s.chunkCrc o 0
        crcOk := true } := by
  obtain ⟨hlen, htag, -, hcrc⟩ := State.holds_chunk h
  change s.be32 o = 0 at hlen
  change s.be32 (o + 8) = s.chunkCrc o 0 at hcrc
  unfold State.readIend State.fits
  rw [if_neg (by omega), if_neg (not_not.2 hlen), if_neg (by omega), if_neg (not_not.2 htag), if_neg (by omega),
    if_neg fun hbad => hbad.2 hcrc, htag, hcrc, beq_self_eq_true]

/-! ### The stream -/

section Stream

variable {width height : Word} {bd ct cm fm im : Byte} {payload : List Byte}

theorem ihdrData_length : (ihdrData width height bd ct cm fm im).length = 13 := rfl

theorem pngBytes_length (width height : Word) (bd ct cm fm im : Byte) (payload : List Byte) :
    (pngBytes width height bd ct cm fm im payload).length = 57 + payload.length := by
  have hsig : signature.length = 8 := rfl
  unfold pngBytes
  simp only [List.length_append, chunkBytes_length, ihdrData_length, hsig, List.length_nil]
  omega

/-- Where the signature and the chunks of a stream lie (R175). -/
theorem State.holds_png (h : s.holds 0 (pngBytes width height bd ct cm fm im payload)) :
    s.holds 0 signature ∧ s.holds 8 (chunkBytes tagIhdr (ihdrData width height bd ct cm fm im)) ∧
      s.holds 33 (chunkBytes tagIdat payload) ∧ s.holds (45 + payload.length) (chunkBytes tagIend []) := by
  have hsig : signature.length = 8 := rfl
  have hiend : 8 + (12 + 13) + (12 + payload.length) = 45 + payload.length := by omega
  unfold pngBytes at h
  simp only [State.holds_append, List.length_append, chunkBytes_length, ihdrData_length, hsig, Nat.zero_add,
    hiend] at h
  obtain ⟨⟨⟨hs, hihdr⟩, hidat⟩, hend⟩ := h
  exact ⟨hs, hihdr, hidat, hend⟩

end Stream

/-! ### DECODE from the four reads -/

/-- The state with the four records and the cursor that a successful `DECODE` leaves (R175), before its outcome. -/
def State.decoded (s : State) (b : List Byte) (r : IhdrRec) (d : IdatRec) (e : IendRec) : State :=
  { s with sig := some b, ihdr := some r, idat := some d, iend := some e, decV := true
           poff := low32 (57 + d.len.toNat), pcons := low32 (57 + d.len.toNat) }

/-! A stage in state `t`, from the read in a state `s` with the same buffer (R164, R166, R169, R172). -/

theorem sigBody_of_read {b : List Byte} (hst : SameBuffer s t) (h : s.readSig = .ok b) :
    t.sigBody = .done { t with decV := false, sig := some b, pcons := 8, poff := 8 } := by
  unfold State.sigBody; rw [hst.readSig, h]

theorem ihdrBody_of_read {r : IhdrRec} (hst : SameBuffer s t) (ho : t.poff.toNat = o) (h : s.readIhdr o = .ok r) :
    t.ihdrBody = .done { t with decV := false, ihdr := some r, pcons := 25, poff := low32 (o + 25) } := by
  unfold State.ihdrBody; rw [ho, hst.readIhdr, h]

theorem idatBody_of_read {d : IdatRec} (hst : SameBuffer s t) (hs : t.strict = s.strict) (ho : t.poff.toNat = o)
    (h : s.readIdat o = .ok d) :
    t.idatBody = .done { t with decV := false, idat := some d, pcons := low32 (12 + d.len.toNat)
                                poff := low32 (o + 12 + d.len.toNat) } := by
  unfold State.idatBody; rw [ho, hst.readIdat hs, h]

theorem iendBody_of_read {e : IendRec} (hst : SameBuffer s t) (hs : t.strict = s.strict) (ho : t.poff.toNat = o)
    (h : s.readIend o = .ok e) :
    t.iendBody = .done { t with decV := false, iend := some e, pcons := 12, poff := low32 (o + 12) } := by
  unfold State.iendBody; rw [ho, hst.readIend hs, h]

theorem Body.andThen_of_done {b : Body} {f : State → Body} {u : State} (h : b = .done u) : b.andThen f = f u := by
  rw [h]; rfl

/-- `DECODE` succeeds when the four chunks read one behind the other (R174, R175). -/
theorem decodeBody_of_reads {b : List Byte} {r : IhdrRec} {d : IdatRec} {e : IendRec} (hb : s.readSig = .ok b)
    (hr : s.readIhdr 8 = .ok r) (hd : s.readIdat 33 = .ok d) (he : s.readIend (45 + d.len.toNat) = .ok e) :
    s.decodeBody = .done (s.decoded b r d e) := by
  have hfit := readIdat_fits hd
  have h33 : (low32 (8 + 25)).toNat = 33 := rfl
  have h45 : (low32 (33 + 12 + d.len.toNat)).toNat = 45 + d.len.toNat := low32_toNat_le (w := s.buflen) (by omega)
  have hend : 45 + d.len.toNat + 12 = 57 + d.len.toNat := by omega
  have hstages : s.decodeStart.decodeStages =
      .done { s.decoded b r d e with decV := false, pcons := 12 } := by
    refine Eq.trans (Body.andThen_of_done (sigBody_of_read (s := s) ⟨rfl, rfl, rfl⟩ hb)) ?_
    refine Eq.trans (Body.andThen_of_done (ihdrBody_of_read (s := s) (o := 8) ⟨rfl, rfl, rfl⟩ rfl hr)) ?_
    refine Eq.trans (Body.andThen_of_done (idatBody_of_read (s := s) ⟨rfl, rfl, rfl⟩ rfl h33 hd)) ?_
    refine Eq.trans (iendBody_of_read (s := s) ⟨rfl, rfl, rfl⟩ rfl h45 he) ?_
    rw [hend]
    rfl
  unfold State.decodeBody
  rw [hstages]
  rfl

/-- `DECODE` of a stream in the buffer succeeds, with the width and the height it was made with (R175). -/
theorem exec_decode_of_png {width height : Word} {bd ct cm fm im : Byte} {payload : List Byte}
    (hfit : 57 + payload.length ≤ s.buflen.toNat) (h : s.holds 0 (pngBytes width height bd ct cm fm im payload)) :
    ∃ b r d e, exec .decode s = .next (s.decoded b r d e).finish ∧ r.width = width ∧ r.height = height := by
  obtain ⟨hsig, hihdr, hidat, hiend⟩ := State.holds_png h
  have hn : (low32 payload.length).toNat = payload.length := low32_toNat_le (w := s.buflen) (by omega)
  have hb := readSig_of_holds (by omega) hsig
  have hr := readIhdr_of_holds (by omega) hihdr
  have hd := readIdat_of_holds (by omega) hidat
  have he := readIend_of_holds (by omega) hiend
  rw [← hn] at he
  exact ⟨_, _, _, _, congrArg Body.close (decodeBody_of_reads hb hr hd he), rfl, rfl⟩

end Sys2Proof.Machine
end

section
/-! Loading bytes with a script and decoding them (R108, R292): O58. -/

namespace Sys2Proof.Machine

variable {s : State} {addr : Nat} {bytes : List Byte} {ops : List HostOp}

/-- The writes of `bufw addr: ...` one behind the other (R107). -/
def State.putBytes (s : State) (addr : Nat) : List Byte → State
  | [] => s
  | b :: bs => (s.putBuf addr b).putBytes (addr + 1) bs

theorem State.putBytes_reads : (s.putBytes addr bytes).reads = s.reads := by
  induction bytes generalizing s addr with
  | nil => rfl
  | cons b bs ih => exact ih

theorem State.putBytes_bufCap : (s.putBytes addr bytes).bufCap = s.bufCap := by
  induction bytes generalizing s addr with
  | nil => rfl
  | cons b bs ih => exact ih

theorem State.putBytes_bufByte_below {a : Nat} (h : a < addr) : (s.putBytes addr bytes).bufByte a = s.bufByte a := by
  induction bytes generalizing s addr with
  | nil => rfl
  | cons b bs ih => exact (ih (by omega)).trans (s.putBuf_bufByte_other b (by omega))

theorem State.putBytes_holds : (s.putBytes addr bytes).holds addr bytes := by
  induction bytes generalizing s addr with
  | nil => rfl
  | cons b bs ih =>
    have hfirst : ((s.putBuf addr b).putBytes (addr + 1) bs).bufByte addr = b :=
      (putBytes_bufByte_below (by omega)).trans (s.putBuf_bufByte_same addr b)
    exact State.holds_cons.2 ⟨hfirst, ih⟩

theorem runScript_bufWrite {b : Byte} (h : addr < s.bufCap) :
    runScript (.bufWrite addr b :: ops) s = runScript ops (s.putBuf addr b) :=
  runScript_access (if_pos h)

theorem runScript_bufw (h : addr + bytes.length ≤ s.bufCap) :
    runScript (Script.bufw addr bytes ++ ops) s = runScript ops (s.putBytes addr bytes) := by
  induction bytes generalizing s addr with
  | nil => rfl
  | cons b bs ih =>
    rw [List.length_cons] at h
    exact (runScript_bufWrite (by omega)).trans (ih (s := s.putBuf addr b) (by rw [s.putBuf_bufCap]; omega))

/-- `load data` puts the bytes at index 0 and makes them the valid bytes of BUF (R108). -/
theorem runScript_load (hfit : bytes.length ≤ s.bufCap) (hcap : s.bufCap < 2 ^ 32) :
    ∃ u, runScript (Script.load bytes ++ ops) s = runScript ops u ∧ u.reads = s.reads ∧ u.holds 0 bytes ∧
      u.buflen.toNat = bytes.length := by
  have hlen : (low32 bytes.length).toNat = bytes.length := low32_toNat (by omega)
  have hmin : min bytes.length s.bufCap = bytes.length := Nat.min_eq_left hfit
  refine ⟨(s.putBytes 0 bytes).regStore .buflen (low32 bytes.length), ?_, State.putBytes_reads, ?_, ?_⟩
  · unfold Script.load
    rw [List.append_assoc, runScript_bufw (by omega)]
    exact runScript_store (r := .buflen) rfl (by decide) _ _
  · exact State.putBytes_holds.congr rfl
  · change (low32 (min (low32 bytes.length).toNat (s.putBytes 0 bytes).bufCap)).toNat = _
    rw [State.putBytes_bufCap, hlen, hmin, hlen]

/-- Of a stream in the buffer, `DECODE` and two reads return the width and the height (R175). -/
theorem runScript_decode_reads {width height : Word} {bd ct cm fm im : Byte} {payload : List Byte}
    (hfit : 57 + payload.length ≤ s.buflen.toNat) (h : s.holds 0 (pngBytes width height bd ct cm fm im payload)) :
    ∃ t, runScript [Script.cmd .decode, .regRead 0x60, .regRead 0x64] s = .next t ∧
      t.reads = s.reads ++ [width, height] ∧ t.status.err = .ok := by
  let rest : List HostOp := [.regRead 0x60, .regRead 0x64]
  obtain ⟨b, r, d, e, hdec, rfl, rfl⟩ := exec_decode_of_png (s := { s with script := rest }) hfit (h.congr rfl)
  rw [runScript_cmd hdec rfl, runScript_read (r := .ihdrWidth) rfl, runScript_read (r := .ihdrHeight) rfl,
    runScript_nil]
  exact ⟨_, rfl, List.append_assoc _ _ _, rfl⟩

end Sys2Proof.Machine

open Sys2Proof Sys2Proof.Machine

/-- Settles O58: the load puts the stream in the buffer, and of a stream in the buffer `DECODE` recovers both sizes. -/
theorem loadDecodeReadsWidthAndHeight : Obligations.LoadDecodeReadsWidthAndHeight := by
  intro s width height bd ct cm fm im payload hcap hroom
  obtain ⟨-, hmax⟩ := hcap.bufCap
  have hlen := pngBytes_length width height bd ct cm fm im payload
  obtain ⟨u, hrun, hreads, hholds, hbuflen⟩ := runScript_load (hlen.trans_le hroom) (by omega)
  rw [hrun, ← hreads]
  exact runScript_decode_reads (by omega) hholds

end

section
/-! The byte step of the CRC as a linear map of the register (R120, R127, R128): O12, O13. -/

namespace Sys2Proof.Machine

/-- The byte enters by exclusive-or, and eight shifts follow (R120). -/
theorem crcStep_eq_iterate (c : Word) (b : Byte) : crcStep c b = crcShift^[8] (c ^^^ zext b) := rfl

/-! ### Linearity -/

theorem zext_xor (a b : Byte) : zext (a ^^^ b) = zext a ^^^ zext b := BitVec.setWidth_xor

theorem crcShift_xor (x y : Word) : crcShift (x ^^^ y) = crcShift x ^^^ crcShift y := by
  have hpoly (u v : Word) : u ^^^ crcPoly ^^^ (v ^^^ crcPoly) = u ^^^ v := by
    rw [BitVec.xor_comm v, BitVec.xor_assoc u, ← BitVec.xor_assoc crcPoly, BitVec.xor_self, BitVec.zero_xor]
  unfold crcShift
  rw [BitVec.ushiftRight_xor_distrib, BitVec.getLsbD_xor]
  cases x.getLsbD 0 <;> cases y.getLsbD 0
  · rfl
  · exact BitVec.xor_assoc _ _ _
  · exact (BitVec.xor_assoc _ _ _).trans ((congrArg _ (BitVec.xor_comm _ _)).trans (BitVec.xor_assoc _ _ _).symm)
  · exact (hpoly _ _).symm

theorem iterate_crcShift_xor (n : Nat) (x y : Word) :
    crcShift^[n] (x ^^^ y) = crcShift^[n] x ^^^ crcShift^[n] y := by
  induction n generalizing x y with
  | zero => rfl
  | succ n ih => simp only [Function.iterate_succ_apply, crcShift_xor, ih]

/-! ### The table-driven step -/

/-- Where the lowest `n` bits are 0, `n` shifts only shift. -/
theorem iterate_crcShift_of_low_zero {n : Nat} {c : Word} (h : ∀ k < n, c.getLsbD k = false) :
    crcShift^[n] c = c >>> n := by
  induction n with
  | zero => exact (BitVec.ushiftRight_zero c).symm
  | succ n ih =>
    have hbit : (c >>> n).getLsbD 0 = false := (BitVec.getLsbD_ushiftRight c n 0).trans (h n (by omega))
    rw [Function.iterate_succ_apply', ih fun k hk => h k (by omega), BitVec.shiftRight_add, crcShift, hbit]
    rfl

theorem zext_low_bit (c : Word) (k : Nat) :
    (zext (c.extractLsb' 0 8)).getLsbD k = (decide (k < 8) && c.getLsbD k) := by
  rw [zext, BitVec.getLsbD_setWidth, BitVec.getLsbD_extractLsb', Nat.zero_add]
  by_cases hk : k < 8
  · simp [hk, show k < 32 by omega]
  · simp [hk]

/-- The register with its low byte cleared passes eight shifts as its upper 24 bits. -/
theorem iterate_crcShift_clear_low (c : Word) : crcShift^[8] (c ^^^ zext (c.extractLsb' 0 8)) = c >>> 8 := by
  rw [iterate_crcShift_of_low_zero]
  · apply BitVec.eq_of_getLsbD_eq
    intro k _
    rw [BitVec.getLsbD_ushiftRight, BitVec.getLsbD_ushiftRight, BitVec.getLsbD_xor, zext_low_bit]
    simp
  · intro k hk
    rw [BitVec.getLsbD_xor, zext_low_bit, decide_eq_true hk, Bool.true_and, Bool.xor_self]

/-! ### The step as a bijection -/

/-- The top bit after a shift tells the bit that was shifted out: the polynomial has its top bit set (R127). -/
theorem crcShift_top_bit (c : Word) : (crcShift c).getLsbD 31 = c.getLsbD 0 := by
  have htop : (c >>> 1).getLsbD 31 = false := BitVec.getLsbD_of_ge c 32 le_rfl
  unfold crcShift
  cases c.getLsbD 0
  · exact htop
  · rw [if_pos rfl, BitVec.getLsbD_xor, htop]
    rfl

theorem crcShift_injective : Function.Injective crcShift := by
  intro x y h
  have hlow : x.getLsbD 0 = y.getLsbD 0 := by rw [← crcShift_top_bit, ← crcShift_top_bit, h]
  have hrest : x >>> 1 = y >>> 1 := by
    unfold crcShift at h
    rw [hlow] at h
    split at h
    · exact (BitVec.xor_left_inj _).1 h
    · exact h
  apply BitVec.eq_of_getLsbD_eq
  rintro (_ | k) _
  · exact hlow
  · have hbit := congrArg (·.getLsbD k) hrest
    simpa only [BitVec.getLsbD_ushiftRight, Nat.add_comm 1] using hbit

theorem crcStep_eq_xor (c : Word) (b : Byte) : crcStep c b = crcStep (c ^^^ zext b) 0 := by
  rw [crcStep_eq_iterate, crcStep_eq_iterate, show zext 0 = 0#32 from rfl, BitVec.xor_zero]

theorem crcStep_bijective (b : Byte) : Function.Bijective (crcStep · b) :=
  Finite.injective_iff_bijective.1 fun _ _ h => (BitVec.xor_left_inj _).1 (crcShift_injective.iterate 8 h)

theorem crcFold_zeros (n : Nat) : crcFold 0 (List.replicate n 0) = 0 := by
  induction n with
  | zero => rfl
  | succ n ih => exact ih

end Sys2Proof.Machine

open Sys2Proof Sys2Proof.Machine

/-- Settles O12: the step is linear, so the upper 24 bits and the low byte with `b` go through it apart. -/
theorem tableDrivenCrcAgrees : Obligations.TableDrivenCrcAgrees := by
  intro c b
  let low : Byte := c.extractLsb' 0 8
  have hsplit : c ^^^ zext b = (c ^^^ zext low) ^^^ zext (low ^^^ b) := by
    rw [zext_xor, BitVec.xor_assoc, ← BitVec.xor_assoc (zext low), BitVec.xor_self, BitVec.zero_xor]
  calc crcStep c b
    _ = crcShift^[8] (c ^^^ zext low) ^^^ crcShift^[8] (zext (low ^^^ b)) := by
      rw [crcStep_eq_iterate, hsplit, iterate_crcShift_xor]
    _ = (c >>> 8) ^^^ crcStep 0 (low ^^^ b) := by
      rw [iterate_crcShift_clear_low, crcStep_eq_iterate 0, show (0 : Word) = 0#32 from rfl, BitVec.zero_xor]

/-- Settles O13: a shift can be undone from the bit it shifted out, and on a finite set that is enough. -/
theorem crcStepIsBijective : Obligations.CrcStepIsBijective :=
  ⟨fun b => ⟨fun c => crcStep_eq_xor c b, crcStep_bijective b⟩, crcFold_zeros⟩

end

section
/-! The four CRC commands (R123 to R126), the one-shot commands as two commands (R126, R147), and a message absorbed in
pieces (R122): O14 to O18, O25. -/

namespace Sys2Proof.Machine

variable {s t u : State}

/-! ### Command by command -/

/-- The accumulator takes a value: all the CRC commands write. -/
def State.setCrc (s : State) (c : Word) : State := { s with crcState := c }

theorem exec_crcInit (s : State) : exec .crcInit s = .next (s.setCrc crcSeed).finish := rfl

theorem exec_crcByte (b : Byte) (s : State) :
    exec (.crcByte b) s = .next (s.setCrc (crcStep s.crcState b)).finish := rfl

theorem State.setCrc_sameBuffer (s : State) (c : Word) : SameBuffer s (s.setCrc c).finish := ⟨rfl, rfl, rfl⟩

theorem State.setCrc_ends (s : State) (c : Word) :
    EndsOk s (s.setCrc c).finish ∧ CrcFrame s (s.setCrc c).finish ∧ (s.setCrc c).finish.crcState = c :=
  ⟨⟨rfl, rfl, rfl, rfl⟩, crcFrame_update _ _ _ _, rfl⟩

/-- A range command that leaves `g` of the bytes in the accumulator, on both sides of the bound (R125, R126). -/
theorem crcRange_ends {i : Instr} {g : List Byte → Word}
    (hexec : exec i s = s.overRange fun bytes => s.setCrc (g bytes)) :
    (s.arg0.toNat + s.arg1.toNat ≤ s.buflen.toNat → ∃ t, exec i s = .next t ∧ EndsOk s t ∧ CrcFrame s t ∧
      t.crcState = g (s.bufRange s.arg0.toNat s.arg1.toNat)) ∧
    (s.buflen.toNat < s.arg0.toNat + s.arg1.toNat → ∃ t, exec i s = .next t ∧
      EndsRaised .outOfBounds .none s.arg0 t ∧ CrcFrame s t ∧ t.crcState = s.crcState) :=
  ⟨fun h => ⟨_, hexec.trans (overRange_of_fits h _), s.setCrc_ends _⟩,
    fun h => ⟨_, hexec.trans (if_neg (Nat.not_le.2 h)), s.raise_ends _ _ _, crcFrame_update _ _ _ _, rfl⟩⟩

/-- `CRC_VALUE` applies the final exclusive-or of `crc32` (R36, R121). -/
theorem crcValue_eq_xor (s : State) : s.regValue .crcValue = s.crcState ^^^ crcXorOut := rfl

theorem xor_crcXorOut_twice (c : Word) : c ^^^ crcXorOut ^^^ crcXorOut = c := by
  rw [BitVec.xor_assoc, BitVec.xor_self, BitVec.xor_zero]

/-- What `CRC32` leaves in the accumulator is the fold from the seed. -/
theorem crc32_xor_crcXorOut (bytes : List Byte) : crc32 bytes ^^^ crcXorOut = crcFold crcSeed bytes :=
  xor_crcXorOut_twice _

/-! ### A message in pieces -/

/-- From `s` to `t` the accumulator `acc` has taken the `step`s of `bytes`; the buffer and the host's reads stand. -/
structure Absorbed {α : Type} (acc : State → α) (step : α → Byte → α) (s : State) (bytes : List Byte) (t : State) :
    Prop where
  buffer : SameBuffer s t
  reads : t.reads = s.reads
  value : acc t = bytes.foldl step (acc s)

section Pieces

variable {α : Type} {acc : State → α} {step : α → Byte → α} {xs ys : List Byte} {pieceOps : Piece → List HostOp}
  {ops : List HostOp} {pieces : List Piece}

theorem SameBuffer.trans (hu : SameBuffer s u) (ht : SameBuffer u t) : SameBuffer s t :=
  ⟨ht.buflen.trans hu.buflen, ht.buf.trans hu.buf, ht.resets.trans hu.resets⟩

theorem Absorbed.trans (hu : Absorbed acc step s xs u) (ht : Absorbed acc step u ys t) :
    Absorbed acc step s (xs ++ ys) t :=
  ⟨hu.buffer.trans ht.buffer, ht.reads.trans hu.reads, by rw [ht.value, hu.value, List.foldl_append]⟩

theorem Piece.bytes_congr (h : SameBuffer s t) (p : Piece) : p.bytes t = p.bytes s := by
  cases p with
  | byte b => rfl
  | range off len => exact congrFun₂ h.range _ _

theorem Piece.inBuffer_congr (h : SameBuffer s t) {p : Piece} (hp : p.inBuffer s) : p.inBuffer t := by
  cases p with
  | byte b => trivial
  | range off len => exact hp.trans_eq (congrArg _ h.buflen.symm)

/-- Accesses that absorb each piece absorb the message the pieces make (R122, R142). -/
theorem runScript_pieces
    (hpiece : ∀ (p : Piece) (s : State) (ops : List HostOp), p.inBuffer s →
      ∃ t, runScript (pieceOps p ++ ops) s = runScript ops t ∧ Absorbed acc step s (p.bytes s) t)
    (h : ∀ p ∈ pieces, p.inBuffer s) :
    ∃ t, runScript (pieces.flatMap pieceOps ++ ops) s = runScript ops t ∧
      Absorbed acc step s (pieces.flatMap (Piece.bytes s)) t := by
  induction pieces generalizing s with
  | nil => exact ⟨s, rfl, ⟨rfl, rfl, rfl⟩, rfl, rfl⟩
  | cons p ps ih =>
    obtain ⟨hp, hps⟩ := List.forall_mem_cons.1 h
    obtain ⟨u, hrun, hu⟩ := hpiece p s (ps.flatMap pieceOps ++ ops) hp
    obtain ⟨t, hrest, ht⟩ := ih fun q hq => Piece.inBuffer_congr hu.buffer (hps q hq)
    rw [funext (Piece.bytes_congr hu.buffer)] at ht
    rw [List.flatMap_cons, List.flatMap_cons, List.append_assoc]
    exact ⟨t, hrun.trans hrest, hu.trans ht⟩

end Pieces

/-- The accesses of one piece absorb its bytes into the CRC accumulator. -/
theorem runScript_crcPiece (p : Piece) (s : State) (ops : List HostOp) (h : p.inBuffer s) :
    ∃ t, runScript (p.crcOps ++ ops) s = runScript ops t ∧ Absorbed State.crcState crcStep s (p.bytes s) t := by
  cases p with
  | byte b => exact ⟨_, runScript_cmd (exec_crcByte b _) rfl, ⟨rfl, rfl, rfl⟩, rfl, rfl⟩
  | range off len =>
    let u := (s.regStore .arg0 off).regStore .arg1 len
    have hfits : u.fits u.arg0.toNat u.arg1.toNat := h
    have hbuf : SameBuffer s u := ⟨rfl, rfl, rfl⟩
    refine ⟨_, (runScript_store (r := .arg0) rfl (by decide) off s).trans
      ((runScript_store (r := .arg1) rfl (by decide) len _).trans
        (runScript_rangeCmd exec_crcBuf (fun _ _ => rfl) hfits)), ⟨rfl, rfl, rfl⟩, rfl, ?_⟩
    exact congrArg (crcFold s.crcState) (congrFun₂ hbuf.range _ _)

end Sys2Proof.Machine

open Sys2Proof Sys2Proof.Machine

/-- Settles O18: the pieces are absorbed one behind the other from the seed, and `CRC_VALUE` reads the complement. -/
theorem incrementalCrcIsCrcOfMessage : Obligations.IncrementalCrcIsCrcOfMessage := by
  intro s pieces h
  have hbuf := s.setCrc_sameBuffer crcSeed
  obtain ⟨t, hrun, ht⟩ := runScript_pieces (ops := [.regRead 0x24]) runScript_crcPiece
    fun p hp => Piece.inBuffer_congr hbuf (h p hp)
  have hvalue : t.regValue .crcValue = crc32 (pieces.flatMap (Piece.bytes s)) := by
    rw [crcValue_eq_xor, ht.value, funext (Piece.bytes_congr hbuf)]; rfl
  refine ⟨_, (runScript_cmd (exec_crcInit _) rfl).trans
    (hrun.trans ((runScript_read (r := .crcValue) rfl t).trans (runScript_nil _))), ?_⟩
  change t.reads ++ [t.regValue .crcValue] = _
  rw [hvalue, ht.reads]
  rfl

/-- Settles O25: the one-shot command leaves the fold from the initial accumulator, which is what the two commands
leave (`crc32_xor_crcXorOut`, `exec_adler32`). -/
theorem oneShotIsInitThenBuf : Obligations.OneShotIsInitThenBuf := by
  intro s h
  constructor
  · let u := (s.setCrc crcSeed).finish
    have hfits : u.fits u.arg0.toNat u.arg1.toNat := h
    refine ⟨u, _, exec_crcInit s, (exec_crcBuf u).trans (overRange_of_fits hfits _), ?_⟩
    rw [exec_crc32, overRange_of_fits h, crc32_xor_crcXorOut, (s.setCrc_sameBuffer crcSeed).range]
    rfl
  · let u := (s.setAdler (1, 0)).finish
    have hfits : u.fits u.arg0.toNat u.arg1.toNat := h
    have hbuf : SameBuffer s u := ⟨rfl, rfl, rfl⟩
    refine ⟨u, _, rfl, (exec_adlerBuf u).trans (overRange_of_fits hfits _), ?_⟩
    rw [exec_adler32, overRange_of_fits h, hbuf.range]
    rfl

/-- Settles O14: the end is that of `State.setCrc_ends`, and seeding forgets what the accumulator held. -/
theorem crcInitSeeds : Obligations.CrcInitSeeds := by
  refine ⟨decodeWord_encode .crcInit, fun s => ?_⟩
  obtain ⟨hends, hframe, -⟩ := s.setCrc_ends crcSeed
  exact ⟨_, exec_crcInit s, hends, hframe, rfl, BitVec.xor_self, exec_crcInit _⟩

/-- Settles O15: the words are those of the encoder, and the three values are computed. -/
theorem crcByteSteps : Obligations.CrcByteSteps :=
  ⟨fun b => decodeWord_encode (.crcByte b), fun s b => ⟨_, exec_crcByte b s, s.setCrc_ends _⟩, by decide⟩

/-- Settles O16, by `crcRange_ends`. -/
theorem crcBufAbsorbsRange : Obligations.CrcBufAbsorbsRange :=
  ⟨decodeWord_encode .crcBuf, fun s => crcRange_ends (exec_crcBuf s)⟩

/-- Settles O17: `crcRange_ends`, and the view cancels the final exclusive-or of the checksum. -/
theorem crc32LeavesChecksum : Obligations.Crc32LeavesChecksum := by
  refine ⟨decodeWord_encode .crc32, fun s => ?_⟩
  obtain ⟨hok, hraised⟩ := crcRange_ends (exec_crc32 s)
  refine ⟨fun h => ?_, hraised⟩
  obtain ⟨t, hexec, hends, hframe, hcrc⟩ := hok h
  exact ⟨t, hexec, hends, hframe, hcrc, by rw [crcValue_eq_xor, hcrc, xor_crcXorOut_twice]⟩

end

section
/-! The Adler-32 function (R140 to R143, R148), its four commands (R144 to R147), and a message absorbed in pieces
(R142): O19 to O24, O26. -/

namespace Sys2Proof.Machine

/-! ### The deferred sums -/

/-- `a` without any reduction: 1 plus the sum of the bytes (R148). -/
def deferredA (bytes : List Byte) : Nat := 1 + (bytes.map BitVec.toNat).sum

/-- `b` without any reduction: the sum of the values `a` has taken (R148). -/
def deferredB (bytes : List Byte) : Nat := ((List.range bytes.length).map fun k => deferredA (bytes.take (k + 1))).sum

theorem deferredA_concat (bytes : List Byte) (x : Byte) : deferredA (bytes ++ [x]) = deferredA bytes + x.toNat := by
  simp [deferredA, Nat.add_assoc]

/-- A byte more adds the new `a`; the values `a` had before stay. -/
theorem deferredB_concat (bytes : List Byte) (x : Byte) :
    deferredB (bytes ++ [x]) = deferredB bytes + deferredA (bytes ++ [x]) := by
  have hbefore : ∀ k ∈ List.range bytes.length,
      deferredA ((bytes ++ [x]).take (k + 1)) = deferredA (bytes.take (k + 1)) := fun k hk => by
    rw [List.take_append_of_le_length (List.mem_range.1 hk)]
  have hall : (bytes ++ [x]).take (bytes.length + 1) = bytes ++ [x] := List.take_of_length_le (by simp)
  unfold deferredB
  rw [List.length_append, List.length_singleton, List.range_succ, List.map_append, List.sum_append,
    List.map_congr_left hbefore, List.map_singleton, hall, List.sum_singleton]

/-- One step from reduced sums is one step of the sums, reduced (R140). -/
theorem adlerStep_mod (a b : Nat) (x : Byte) :
    adlerStep (a % adlerMod, b % adlerMod) x = ((a + x.toNat) % adlerMod, (b + (a + x.toNat)) % adlerMod) := by
  simp [adlerStep]

theorem adlerFold_eq_deferred (bytes : List Byte) :
    adlerFold (1, 0) bytes = (deferredA bytes % adlerMod, deferredB bytes % adlerMod) := by
  induction bytes using List.reverseRecOn with
  | nil => rfl
  | append_singleton bytes x ih =>
    rw [adlerFold_append, ih, deferredB_concat, deferredA_concat]
    exact adlerStep_mod _ _ x

/-! ### The checksum as a number -/

theorem adler32_nil : adler32 [] = 0x00000001 := rfl

/-- The sums of a checksum are reduced (R141). -/
theorem adlerFold_initial_lt (bytes : List Byte) :
    (adlerFold (1, 0) bytes).1 < 65521 ∧ (adlerFold (1, 0) bytes).2 < 65521 :=
  adlerFold_lt (by decide) (by decide) bytes

theorem adler32_toNat (bytes : List Byte) :
    (adler32 bytes).toNat = (adlerFold (1, 0) bytes).2 * 65536 + (adlerFold (1, 0) bytes).1 := by
  obtain ⟨ha, hb⟩ := adlerFold_initial_lt bytes
  exact adlerPack_toNat (by omega) (by omega)

theorem adler32_halves_toNat (bytes : List Byte) :
    (adler32 bytes).toNat % 65536 = (adlerFold (1, 0) bytes).1 ∧
      (adler32 bytes).toNat / 65536 = (adlerFold (1, 0) bytes).2 := by
  obtain ⟨ha, -⟩ := adlerFold_initial_lt bytes
  have := adler32_toNat bytes
  omega

/-- The upper two bytes of a word make its upper half and the lower two its lower half (R71). -/
theorem bytes_make_halves (v : Word) :
    (v.extractLsb' 24 8).toNat * 256 + (v.extractLsb' 16 8).toNat = v.toNat / 65536 ∧
      (v.extractLsb' 8 8).toNat * 256 + (v.extractLsb' 0 8).toNat = v.toNat % 65536 := by
  simp only [BitVec.extractLsb'_toNat, Nat.shiftRight_eq_div_pow]
  omega

/-! ### The sum registers -/

theorem exec_adlerInit (s : State) : exec .adlerInit s = .next (s.setAdler (1, 0)).finish := rfl

theorem exec_adlerByte (x : Byte) (s : State) :
    exec (.adlerByte x) s = .next (s.setAdler (adlerStep s.adlerPair x)).finish := rfl

theorem State.setAdler_sameBuffer (s : State) (p : Nat × Nat) : SameBuffer s (s.setAdler p).finish := ⟨rfl, rfl, rfl⟩

theorem State.setAdler_ends (s : State) (p : Nat × Nat) :
    EndsOk s (s.setAdler p).finish ∧ AdlerFrame s (s.setAdler p).finish :=
  ⟨⟨rfl, rfl, rfl, rfl⟩, adlerFrame_update _ _ _ _ _⟩

/-- Reduced sums fit the registers (R37). -/
theorem State.setAdler_pair (s : State) {p : Nat × Nat} (h : p.1 < 65521 ∧ p.2 < 65521) :
    (s.setAdler p).finish.adlerPair = p := by
  obtain ⟨ha, hb⟩ := h
  exact Prod.ext (low32_toNat (by omega)) (low32_toNat (by omega))

/-- From any registers, reduced or not, the registers hold the sums the fold gives: no byte leaves them, and the first
byte reduces them. -/
theorem State.setAdler_fold_pair (s : State) (bytes : List Byte) :
    (s.setAdler (adlerFold s.adlerPair bytes)).finish.adlerPair = adlerFold s.adlerPair bytes := by
  cases bytes with
  | nil => exact Prod.ext (congrArg BitVec.toNat (low32_of_toNat _)) (congrArg BitVec.toNat (low32_of_toNat _))
  | cons x xs =>
    obtain ⟨ha, hb⟩ := adlerStep_lt s.adlerPair x
    exact s.setAdler_pair (adlerFold_lt ha hb xs)

/-- A range command that leaves the sums `g` of the bytes, on both sides of the bound (R146, R147). -/
theorem adlerRange_ends {i : Instr} {s : State} {g : List Byte → Nat × Nat}
    (hexec : exec i s = s.overRange fun bytes => s.setAdler (g bytes))
    (hpair : ∀ bytes, (s.setAdler (g bytes)).finish.adlerPair = g bytes) :
    (s.arg0.toNat + s.arg1.toNat ≤ s.buflen.toNat → ∃ t, exec i s = .next t ∧ EndsOk s t ∧ AdlerFrame s t ∧
      t.adlerPair = g (s.bufRange s.arg0.toNat s.arg1.toNat)) ∧
    (s.buflen.toNat < s.arg0.toNat + s.arg1.toNat → ∃ t, exec i s = .next t ∧
      EndsRaised .outOfBounds .none s.arg0 t ∧ AdlerFrame s t ∧ SameAdler s t) := by
  refine ⟨fun h => ?_, fun h => ?_⟩
  · obtain ⟨hends, hframe⟩ := s.setAdler_ends (g (s.bufRange s.arg0.toNat s.arg1.toNat))
    exact ⟨_, hexec.trans (overRange_of_fits h _), hends, hframe, hpair _⟩
  · exact ⟨_, hexec.trans (if_neg (Nat.not_le.2 h)), s.raise_ends _ _ _, adlerFrame_update _ _ _ _ _, rfl, rfl⟩

/-! ### A message in pieces -/

/-- The accesses of one piece absorb its bytes into the two sums. -/
theorem runScript_adlerPiece (p : Piece) (s : State) (ops : List HostOp) (h : p.inBuffer s) :
    ∃ t, runScript (p.adlerOps ++ ops) s = runScript ops t ∧ Absorbed State.adlerPair adlerStep s (p.bytes s) t := by
  cases p with
  | byte x =>
    exact ⟨_, runScript_cmd (exec_adlerByte x _) rfl, ⟨rfl, rfl, rfl⟩, rfl, s.setAdler_pair (adlerStep_lt _ x)⟩
  | range off len =>
    let u := (s.regStore .arg0 off).regStore .arg1 len
    have hfits : u.fits u.arg0.toNat u.arg1.toNat := h
    have hbuf : SameBuffer s u := ⟨rfl, rfl, rfl⟩
    refine ⟨_, (runScript_store (r := .arg0) rfl (by decide) off s).trans
      ((runScript_store (r := .arg1) rfl (by decide) len _).trans
        (runScript_rangeCmd exec_adlerBuf (fun _ _ => rfl) hfits)), ⟨rfl, rfl, rfl⟩, rfl, ?_⟩
    exact (u.setAdler_fold_pair _).trans (congrArg (adlerFold s.adlerPair) (congrFun₂ hbuf.range _ _))

/-- `ADLER_VALUE` packs the sums the registers hold (R38). -/
theorem adlerValue_eq_adler32 {t : State} {bytes : List Byte} (h : t.adlerPair = adlerFold (1, 0) bytes) :
    t.regValue .adlerValue = adler32 bytes := by
  unfold adler32
  rw [← h]
  exact (congrArg₂ adlerPack (low32_of_toNat _) (low32_of_toNat _)).symm

end Sys2Proof.Machine

open Sys2Proof Sys2Proof.Machine

/-- Settles O19: at every byte the reduced sums are those of `deferredA` and `deferredB`. -/
theorem adlerEqualsDeferredSums : Obligations.AdlerEqualsDeferredSums := adlerFold_eq_deferred

/-- Settles O20: the sums are below 2^16, so they are the halves of the word, and its bytes are those of the halves. -/
theorem adlerHalvesAndBytes : Obligations.AdlerHalvesAndBytes := by
  refine ⟨adler32_nil, fun bytes => ?_⟩
  obtain ⟨hlow, hhigh⟩ := adler32_halves_toNat bytes
  obtain ⟨hupper, hlower⟩ := bytes_make_halves (adler32 bytes)
  exact ⟨hlow, hhigh, _, _, _, _, rfl, packBE_bytesBE _, hupper.trans hhigh, hlower.trans hlow⟩

/-- Settles O26: the pieces are absorbed one behind the other from the sums 1 and 0, which `ADLER_VALUE` packs. -/
theorem incrementalAdlerIsAdlerOfMessage : Obligations.IncrementalAdlerIsAdlerOfMessage := by
  intro s pieces h
  have hbuf := s.setAdler_sameBuffer (1, 0)
  obtain ⟨t, hrun, ht⟩ := runScript_pieces (ops := [.regRead 0x30]) runScript_adlerPiece
    fun p hp => Piece.inBuffer_congr hbuf (h p hp)
  have hvalue : t.regValue .adlerValue = adler32 (pieces.flatMap (Piece.bytes s)) := by
    rw [funext (Piece.bytes_congr hbuf)] at ht
    exact adlerValue_eq_adler32 ht.value
  refine ⟨_, (runScript_cmd (exec_adlerInit _) rfl).trans
    (hrun.trans ((runScript_read (r := .adlerValue) rfl t).trans (runScript_nil _))), ?_⟩
  change t.reads ++ [t.regValue .adlerValue] = _
  rw [hvalue, ht.reads]
  rfl

/-- Settles O21: the sums 1 and 0 are those of the empty sequence, and loading them forgets what the registers held. -/
theorem adlerInitLoadsOneZero : Obligations.AdlerInitLoadsOneZero := by
  refine ⟨decodeWord_encode .adlerInit, fun s => ?_⟩
  obtain ⟨hends, hframe⟩ := s.setAdler_ends (1, 0)
  have hvalue := adlerValue_eq_adler32 (bytes := []) (s.setAdler_pair (p := (1, 0)) (by decide))
  exact ⟨_, exec_adlerInit s, hends, hframe, rfl, rfl, hvalue.trans adler32_nil, exec_adlerInit _⟩

/-- Settles O22: one step of the sums is reduced, so the registers hold it. -/
theorem adlerByteSteps : Obligations.AdlerByteSteps := by
  refine ⟨fun x => decodeWord_encode (.adlerByte x), fun s x => ?_⟩
  obtain ⟨hends, hframe⟩ := s.setAdler_ends (adlerStep s.adlerPair x)
  obtain ⟨ha, hb⟩ := Prod.ext_iff.1 (s.setAdler_pair (adlerStep_lt s.adlerPair x))
  refine ⟨_, exec_adlerByte x s, hends, hframe, ha, hb.trans ?_⟩
  exact congrArg (fun a => (s.adlerB.toNat + a) % adlerMod) ha.symm

/-- Settles O23: `adlerRange_ends`, for the fold from whatever the registers hold. -/
theorem adlerBufAbsorbsRange : Obligations.AdlerBufAbsorbsRange :=
  ⟨decodeWord_encode .adlerBuf, fun s => adlerRange_ends (exec_adlerBuf s) s.setAdler_fold_pair⟩

/-- Settles O24: `adlerRange_ends`, for the fold from 1 and 0, whose sums are the halves of the checksum. -/
theorem adler32LeavesChecksum : Obligations.Adler32LeavesChecksum := by
  refine ⟨decodeWord_encode .adler32, fun s => ?_⟩
  obtain ⟨hok, hraised⟩ := adlerRange_ends (exec_adler32 s) fun bytes => s.setAdler_pair (adlerFold_initial_lt bytes)
  refine ⟨fun h => ?_, hraised⟩
  obtain ⟨t, hexec, hends, hframe, hpair⟩ := hok h
  obtain ⟨ha, hb⟩ := Prod.ext_iff.1 hpair
  obtain ⟨hlow, hhigh⟩ := adler32_halves_toNat (s.bufRange s.arg0.toNat s.arg1.toNat)
  exact ⟨t, hexec, hends, hframe, ha.trans hlow.symm, hb.trans hhigh.symm, adlerValue_eq_adler32 hpair⟩

end

section
/-! The four `PARSE_*` commands from what their chunks read as (R164 to R173): O27, O28, O29, O30. -/

namespace Sys2Proof.Machine

variable {s t : State} {o : Nat} {e : ErrCode} {info : Word}

/-! ### What a chunk reads as, check by check -/

theorem readSig_of_not_signature (h : ¬ (8 ≤ s.buflen.toNat ∧ s.bufRange 0 8 = signature)) :
    s.readSig = .err .badSignature 0 := by
  rw [Classical.not_and_iff_not_or_not, Nat.not_le] at h
  exact if_pos h

section Ihdr

theorem readIhdr_no_length (hend : s.buflen.toNat < o + 4) : s.readIhdr o = .err .outOfBounds (low32 o) := by
  rw [State.readIhdr, if_pos (by omega)]

theorem readIhdr_bad_length (hfit : o + 4 ≤ s.buflen.toNat) (hlen : s.be32 o ≠ 13) :
    s.readIhdr o = .err .invalidLength (s.be32 o) := by
  rw [State.readIhdr, if_neg (by omega), if_pos hlen]

variable (hlen : s.be32 o = 13)
include hlen

theorem readIhdr_no_tag (hfit : o + 4 ≤ s.buflen.toNat) (hend : s.buflen.toNat < o + 8) :
    s.readIhdr o = .err .outOfBounds (low32 (o + 4)) := by
  rw [State.readIhdr, if_neg (by omega), if_neg (not_not.2 hlen), if_pos (by omega)]

theorem readIhdr_bad_tag (hfit : o + 8 ≤ s.buflen.toNat) (htag : s.be32 (o + 4) ≠ tagIhdr) :
    s.readIhdr o = .err .unexpectedChunkType (s.be32 (o + 4)) := by
  rw [State.readIhdr, if_neg (by omega), if_neg (not_not.2 hlen), if_neg (by omega), if_pos htag]

variable (htag : s.be32 (o + 4) = tagIhdr)
include htag

theorem readIhdr_no_data (hfit : o + 8 ≤ s.buflen.toNat) (hend : s.buflen.toNat < o + 21) :
    s.readIhdr o = .err .outOfBounds (low32 (o + 8)) := by
  rw [State.readIhdr, if_neg (by omega), if_neg (not_not.2 hlen), if_neg (by omega), if_neg (not_not.2 htag),
    if_pos (by omega)]

theorem readIhdr_no_trailer (hfit : o + 21 ≤ s.buflen.toNat) (hend : s.buflen.toNat < o + 25) :
    s.readIhdr o = .err .outOfBounds (low32 (o + 21)) := by
  rw [State.readIhdr, if_neg (by omega), if_neg (not_not.2 hlen), if_neg (by omega), if_neg (not_not.2 htag),
    if_neg (by omega), if_pos (by omega)]

theorem readIhdr_bad_trailer (hfit : o + 25 ≤ s.buflen.toNat) (hcrc : s.be32 (o + 21) ≠ s.chunkCrc o 13) :
    s.readIhdr o = .err .checksumMismatch (s.chunkCrc o 13) := by
  rw [State.readIhdr, if_neg (by omega), if_neg (not_not.2 hlen), if_neg (by omega), if_neg (not_not.2 htag),
    if_neg (by omega), if_neg (by omega), if_pos hcrc]

theorem readIhdr_good (hfit : o + 25 ≤ s.buflen.toNat) (hcrc : s.be32 (o + 21) = s.chunkCrc o 13) :
    s.readIhdr o = .ok
      { off := low32 o, len := 13, type := tagIhdr, width := s.be32 (o + 8), height := s.be32 (o + 12)
        bitdepth := s.bufByte (o + 16), color := s.bufByte (o + 17), comp := s.bufByte (o + 18)
        filter := s.bufByte (o + 19), interlace := s.bufByte (o + 20), crc := s.be32 (o + 21)
        crcCalc := s.chunkCrc o 13 } := by
  rw [State.readIhdr, if_neg (by omega), if_neg (not_not.2 hlen), if_neg (by omega), if_neg (not_not.2 htag),
    if_neg (by omega), if_neg (by omega), if_neg (not_not.2 hcrc), htag]

end Ihdr

section Idat

theorem readIdat_no_length (hend : s.buflen.toNat < o + 4) : s.readIdat o = .err .outOfBounds (low32 o) := by
  rw [State.readIdat, if_pos (by omega)]

theorem readIdat_no_tag (hfit : o + 4 ≤ s.buflen.toNat) (hend : s.buflen.toNat < o + 8) :
    s.readIdat o = .err .outOfBounds (low32 (o + 4)) := by
  rw [State.readIdat, if_neg (by omega), if_pos (by omega)]

theorem readIdat_bad_tag (hfit : o + 8 ≤ s.buflen.toNat) (htag : s.be32 (o + 4) ≠ tagIdat) :
    s.readIdat o = .err .unexpectedChunkType (s.be32 (o + 4)) := by
  rw [State.readIdat, if_neg (by omega), if_neg (by omega), if_pos htag]

variable (htag : s.be32 (o + 4) = tagIdat)
include htag

theorem readIdat_no_data (hfit : o + 8 ≤ s.buflen.toNat) (hend : s.buflen.toNat < o + 8 + (s.be32 o).toNat) :
    s.readIdat o = .err .outOfBounds (low32 (o + 8)) := by
  rw [State.readIdat, if_neg (by omega), if_neg (by omega), if_neg (not_not.2 htag), if_pos (by omega)]

theorem readIdat_no_trailer (hfit : o + 8 + (s.be32 o).toNat ≤ s.buflen.toNat)
    (hend : s.buflen.toNat < o + 12 + (s.be32 o).toNat) :
    s.readIdat o = .err .outOfBounds (low32 (o + 8 + (s.be32 o).toNat)) := by
  rw [State.readIdat, if_neg (by omega), if_neg (by omega), if_neg (not_not.2 htag), if_neg (by omega),
    if_pos (by omega)]

theorem readIdat_bad_trailer (hfit : o + 12 + (s.be32 o).toNat ≤ s.buflen.toNat) (hstrict : s.strict = true)
    (hcrc : s.be32 (o + 8 + (s.be32 o).toNat) ≠ s.chunkCrc o (s.be32 o).toNat) :
    s.readIdat o = .err .checksumMismatch (s.chunkCrc o (s.be32 o).toNat) := by
  rw [State.readIdat, if_neg (by omega), if_neg (by omega), if_neg (not_not.2 htag), if_neg (by omega),
    if_neg (by omega), if_pos ⟨hstrict, hcrc⟩]

theorem readIdat_good (hfit : o + 12 + (s.be32 o).toNat ≤ s.buflen.toNat)
    (hcrc : s.strict = true → s.be32 (o + 8 + (s.be32 o).toNat) = s.chunkCrc o (s.be32 o).toNat) :
    s.readIdat o = .ok
      { off := low32 o, len := s.be32 o, type := tagIdat, dataOff := low32 (o + 8)
        crc := s.be32 (o + 8 + (s.be32 o).toNat), crcCalc := s.chunkCrc o (s.be32 o).toNat
        crcOk := s.be32 (o + 8 + (s.be32 o).toNat) == s.chunkCrc o (s.be32 o).toNat
        chunkLen := low32 (12 + (s.be32 o).toNat) } := by
  rw [State.readIdat, if_neg (by omega), if_neg (by omega), if_neg (not_not.2 htag), if_neg (by omega),
    if_neg (by omega), if_neg fun hbad => hbad.2 (hcrc hbad.1), htag]

end Idat

section Iend

theorem readIend_no_length (hend : s.buflen.toNat < o + 4) : s.readIend o = .err .outOfBounds (low32 o) := by
  rw [State.readIend, if_pos (by omega)]

theorem readIend_bad_length (hfit : o + 4 ≤ s.buflen.toNat) (hlen : s.be32 o ≠ 0) :
    s.readIend o = .err .invalidLength (s.be32 o) := by
  rw [State.readIend, if_neg (by omega), if_pos hlen]

variable (hlen : s.be32 o = 0)
include hlen

theorem readIend_no_tag (hfit : o + 4 ≤ s.buflen.toNat) (hend : s.buflen.toNat < o + 8) :
    s.readIend o = .err .outOfBounds (low32 (o + 4)) := by
  rw [State.readIend, if_neg (by omega), if_neg (not_not.2 hlen), if_pos (by omega)]

theorem readIend_bad_tag (hfit : o + 8 ≤ s.buflen.toNat) (htag : s.be32 (o + 4) ≠ tagIend) :
    s.readIend o = .err .unexpectedChunkType (s.be32 (o + 4)) := by
  rw [State.readIend, if_neg (by omega), if_neg (not_not.2 hlen), if_neg (by omega), if_pos htag]

variable (htag : s.be32 (o + 4) = tagIend)
include htag

theorem readIend_no_trailer (hfit : o + 8 ≤ s.buflen.toNat) (hend : s.buflen.toNat < o + 12) :
    s.readIend o = .err .outOfBounds (low32 (o + 8)) := by
  rw [State.readIend, if_neg (by omega), if_neg (not_not.2 hlen), if_neg (by omega), if_neg (not_not.2 htag),
    if_pos (by omega)]

theorem readIend_bad_trailer (hfit : o + 12 ≤ s.buflen.toNat) (hstrict : s.strict = true)
    (hcrc : s.be32 (o + 8) ≠ s.chunkCrc o 0) : s.readIend o = .err .checksumMismatch (s.chunkCrc o 0) := by
  rw [State.readIend, if_neg (by omega), if_neg (not_not.2 hlen), if_neg (by omega), if_neg (not_not.2 htag),
    if_neg (by omega), if_pos ⟨hstrict, hcrc⟩]

theorem readIend_good (hfit : o + 12 ≤ s.buflen.toNat)
    (hcrc : s.strict = true → s.be32 (o + 8) = s.chunkCrc o 0) :
    s.readIend o = .ok
      { off := low32 o, len := 0, type := tagIend, crc := s.be32 (o + 8), crcCalc := s.chunkCrc o 0
        crcOk := s.be32 (o + 8) == s.chunkCrc o 0 } := by
  rw [State.readIend, if_neg (by omega), if_neg (not_not.2 hlen), if_neg (by omega), if_neg (not_not.2 htag),
    if_neg (by omega), if_neg fun hbad => hbad.2 (hcrc hbad.1), htag]

end Iend

/-! ### The CRC of an empty IEND chunk -/

/-- The four bytes of a packed word, unpacked again (R38, R71): each bit goes back to the byte it came from. -/
theorem bytesBE_packBE (b0 b1 b2 b3 : Byte) : bytesBE (packBE b0 b1 b2 b3) = [b0, b1, b2, b3] := by
  unfold bytesBE packBE zext
  congr 4
  all_goals
    apply BitVec.eq_of_getLsbD_eq
    intro k hk
    simp only [BitVec.getLsbD_or, BitVec.getLsbD_shiftLeft, BitVec.getLsbD_setWidth, BitVec.getLsbD_extractLsb']
    grind

/-- A field that reads as a word holds the word's bytes (R72). -/
theorem State.bufRange_of_be32 {v : Word} (h : s.be32 o = v) : s.bufRange o 4 = bytesBE v := by
  rw [← h]
  exact (bytesBE_packBE _ _ _ _).symm

/-- The CRC of a chunk without data that is tagged `IEND` is the constant of R172. -/
theorem chunkCrc_iend (htag : s.be32 (o + 4) = tagIend) : s.chunkCrc o 0 = 0xAE426082 := by
  have htagBytes : crc32 (bytesBE tagIend) = 0xAE426082 := by decide +kernel
  rw [← htagBytes, ← State.bufRange_of_be32 htag]
  rfl

/-! ### How a parse command ends

Both ends leave the frame of the parse commands (R178). -/

theorem ParserUpdate.finish_frame {u : State} (h : ParserUpdate s u) : ParserFrame s u.finish := h.frame _ _

theorem ParserUpdate.raise_frame {u : State} (h : ParserUpdate s u) (e : ErrCode) (g : Stage) (info : Word) :
    ParserFrame s (u.raise e g info) := h.frame _ _

/-! A body in state `t`, from the error reading meets in a state `s` with the same buffer. -/

theorem sigBody_of_err (hst : SameBuffer s t) (h : s.readSig = .err e info) :
    t.sigBody = .raised { t with decV := false, sig := none, pcons := 0 } e .signature info := by
  unfold State.sigBody; rw [hst.readSig, h]

theorem ihdrBody_of_err (hst : SameBuffer s t) (ho : t.poff.toNat = o) (h : s.readIhdr o = .err e info) :
    t.ihdrBody = .raised { t with decV := false, ihdr := none, pcons := 0 } e .ihdr info := by
  unfold State.ihdrBody; rw [ho, hst.readIhdr, h]

theorem idatBody_of_err (hst : SameBuffer s t) (hs : t.strict = s.strict) (ho : t.poff.toNat = o)
    (h : s.readIdat o = .err e info) :
    t.idatBody = .raised { t with decV := false, idat := none, pcons := 0 } e .idat info := by
  unfold State.idatBody; rw [ho, hst.readIdat hs, h]

theorem iendBody_of_err (hst : SameBuffer s t) (hs : t.strict = s.strict) (ho : t.poff.toNat = o)
    (h : s.readIend o = .err e info) :
    t.iendBody = .raised { t with decV := false, iend := none, pcons := 0 } e .iend info := by
  unfold State.iendBody; rw [ho, hst.readIend hs, h]

theorem SameBuffer.refl (s : State) : SameBuffer s s := ⟨rfl, rfl, rfl⟩

theorem parseSig_fails (h : s.readSig = .err e info) :
    ∃ t, exec .parseSig s = .next t ∧ ParseFails .parseSig e info s t :=
  ⟨_, congrArg Body.close (sigBody_of_err (.refl s) h), State.raise_ends _ _ _ _,
    ParserUpdate.raise_frame ⟨_, _, _, _, _, _, _, rfl⟩ _ _ _, rfl, rfl, rfl, rfl, rfl, rfl, rfl⟩

theorem parseIhdr_fails (h : s.readIhdr s.poff.toNat = .err e info) :
    ∃ t, exec .parseIhdr s = .next t ∧ ParseFails .parseIhdr e info s t :=
  ⟨_, congrArg Body.close (ihdrBody_of_err (.refl s) rfl h), State.raise_ends _ _ _ _,
    ParserUpdate.raise_frame ⟨_, _, _, _, _, _, _, rfl⟩ _ _ _, rfl, rfl, rfl, rfl, rfl, rfl, rfl⟩

theorem parseIdat_fails (h : s.readIdat s.poff.toNat = .err e info) :
    ∃ t, exec .parseIdat s = .next t ∧ ParseFails .parseIdat e info s t :=
  ⟨_, congrArg Body.close (idatBody_of_err (.refl s) rfl rfl h), State.raise_ends _ _ _ _,
    ParserUpdate.raise_frame ⟨_, _, _, _, _, _, _, rfl⟩ _ _ _, rfl, rfl, rfl, rfl, rfl, rfl, rfl⟩

theorem parseIend_fails (h : s.readIend s.poff.toNat = .err e info) :
    ∃ t, exec .parseIend s = .next t ∧ ParseFails .parseIend e info s t :=
  ⟨_, congrArg Body.close (iendBody_of_err (.refl s) rfl rfl h), State.raise_ends _ _ _ _,
    ParserUpdate.raise_frame ⟨_, _, _, _, _, _, _, rfl⟩ _ _ _, rfl, rfl, rfl, rfl, rfl, rfl, rfl⟩

theorem parseSig_ends {b : List Byte} (h : s.readSig = .ok b) :
    ∃ t, exec .parseSig s = .next t ∧ ParseEnds .parseSig 0 8 s t ∧ t.sig = some b :=
  ⟨_, congrArg Body.close (sigBody_of_read (.refl s) h),
    ⟨⟨rfl, rfl, rfl, rfl⟩, ParserUpdate.finish_frame ⟨_, _, _, _, _, _, _, rfl⟩, rfl, rfl, rfl, absurd rfl,
      fun _ => rfl, fun _ => rfl, fun _ => rfl⟩, rfl⟩

theorem parseIhdr_ends {r : IhdrRec} (h : s.readIhdr s.poff.toNat = .ok r) :
    ∃ t, exec .parseIhdr s = .next t ∧ ParseEnds .parseIhdr s.poff.toNat 25 s t ∧ t.ihdr = some r := by
  obtain ⟨hfit, -⟩ := State.readIhdr_ok h
  exact ⟨_, congrArg Body.close (ihdrBody_of_read (.refl s) rfl h),
    ⟨⟨rfl, rfl, rfl, rfl⟩, ParserUpdate.finish_frame ⟨_, _, _, _, _, _, _, rfl⟩, rfl, low32_toNat_le hfit,
      rfl, fun _ => rfl, absurd rfl, fun _ => rfl, fun _ => rfl⟩, rfl⟩

theorem parseIdat_ends {r : IdatRec} (h : s.readIdat s.poff.toNat = .ok r) :
    ∃ t, exec .parseIdat s = .next t ∧ ParseEnds .parseIdat s.poff.toNat (12 + r.len.toNat) s t ∧
      t.idat = some r := by
  have hfit := readIdat_fits h
  have hpcons : (low32 (12 + r.len.toNat)).toNat = 12 + r.len.toNat := low32_toNat_le (w := s.buflen) (by omega)
  exact ⟨_, congrArg Body.close (idatBody_of_read (.refl s) rfl rfl h),
    ⟨⟨rfl, rfl, rfl, rfl⟩, ParserUpdate.finish_frame ⟨_, _, _, _, _, _, _, rfl⟩, hpcons,
      (low32_toNat_le hfit).trans (Nat.add_assoc _ _ _), rfl, fun _ => rfl, fun _ => rfl, absurd rfl,
      fun _ => rfl⟩, rfl⟩

theorem parseIend_ends {r : IendRec} (h : s.readIend s.poff.toNat = .ok r) :
    ∃ t, exec .parseIend s = .next t ∧ ParseEnds .parseIend s.poff.toNat 12 s t ∧ t.iend = some r := by
  obtain ⟨hfit, -⟩ := State.readIend_ok h
  exact ⟨_, congrArg Body.close (iendBody_of_read (.refl s) rfl rfl h),
    ⟨⟨rfl, rfl, rfl, rfl⟩, ParserUpdate.finish_frame ⟨_, _, _, _, _, _, _, rfl⟩, rfl, low32_toNat_le hfit,
      rfl, fun _ => rfl, fun _ => rfl, fun _ => rfl, absurd rfl⟩, rfl⟩

end Sys2Proof.Machine

open Sys2Proof Sys2Proof.Machine

/-- Settles O27: the one check of the signature, on either side. -/
theorem parseSigChecksMagic : Obligations.ParseSigChecksMagic := by
  refine ⟨rfl, fun s => ⟨fun ⟨hfit, hbytes⟩ => ?_, fun h => parseSig_fails (readSig_of_not_signature h)⟩⟩
  obtain ⟨t, hexec, hends, hsig⟩ := parseSig_ends (readSig_of_holds hfit hbytes)
  refine ⟨t, hexec, hends, hsig, ?_, ?_⟩ <;> simp only [State.regValue, hsig] <;> rfl

/-- Settles O28, check by check in the order of R166. -/
theorem parseIhdrReadsChunk : Obligations.ParseIhdrReadsChunk := by
  refine ⟨rfl, fun s o ho => ?_⟩
  subst ho
  refine ⟨fun hfit hlen htag hcrc => ?_, fun hend => ?_, fun hfit hlen => ?_, fun hfit hlen hend => ?_,
    fun hfit hlen htag => ?_, fun hfit hlen htag hend => ?_, fun hfit hlen htag hend => ?_,
    fun hfit hlen htag hcrc => ?_⟩
  · have hread := readIhdr_good hlen htag hfit hcrc
    rw [low32_of_toNat] at hread
    exact parseIhdr_ends hread
  · exact parseIhdr_fails ((readIhdr_no_length hend).trans (congrArg _ (low32_of_toNat _)))
  · exact parseIhdr_fails (readIhdr_bad_length hfit hlen)
  · exact parseIhdr_fails (low32_add s.poff 4 ▸ readIhdr_no_tag hlen hfit hend)
  · exact parseIhdr_fails (readIhdr_bad_tag hlen hfit htag)
  · exact parseIhdr_fails (low32_add s.poff 8 ▸ readIhdr_no_data hlen htag hfit hend)
  · exact parseIhdr_fails (low32_add s.poff 21 ▸ readIhdr_no_trailer hlen htag hfit hend)
  · exact parseIhdr_fails (readIhdr_bad_trailer hlen htag hfit hcrc)

/-- Settles O29, check by check in the order of R169. -/
theorem parseIdatReadsChunk : Obligations.ParseIdatReadsChunk := by
  refine ⟨rfl, fun s o n ho hn => ?_⟩
  subst ho hn
  refine ⟨fun hfit htag hcrc => ?_, fun hend => ?_, fun hfit hend => ?_, fun hfit htag => ?_,
    fun hfit htag hend => ?_, fun hfit htag hend => ?_, fun hfit htag hstrict hcrc => ?_⟩
  · obtain ⟨t, hexec, hends, hidat⟩ := parseIdat_ends (readIdat_good htag hfit hcrc)
    exact ⟨t, hexec, hends, _, hidat, low32_of_toNat _, rfl, rfl, low32_toNat_le (w := s.buflen) (by omega), rfl, rfl,
      beq_iff_eq, low32_toNat_le (w := s.buflen) (by omega)⟩
  · exact parseIdat_fails ((readIdat_no_length hend).trans (congrArg _ (low32_of_toNat _)))
  · exact parseIdat_fails (low32_add s.poff 4 ▸ readIdat_no_tag hfit hend)
  · exact parseIdat_fails (readIdat_bad_tag hfit htag)
  · exact parseIdat_fails (low32_add s.poff 8 ▸ readIdat_no_data htag hfit hend)
  · have hdetail : low32 (s.poff.toNat + 8 + (s.be32 s.poff.toNat).toNat) = s.poff + 8 + s.be32 s.poff.toNat := by
      rw [Nat.add_assoc, low32_add, BitVec.ofNat_add, BitVec.ofNat_toNat, BitVec.setWidth_eq, ← BitVec.add_assoc]
      rfl
    exact parseIdat_fails (hdetail ▸ readIdat_no_trailer htag hfit hend)
  · exact parseIdat_fails (readIdat_bad_trailer htag hfit hstrict hcrc)

/-- Settles O30, check by check in the order of R172, with the computed CRC known from the tag. -/
theorem parseIendReadsChunk : Obligations.ParseIendReadsChunk := by
  refine ⟨rfl, fun s o ho => ?_⟩
  subst ho
  refine ⟨fun hfit hlen htag hcrc => ?_, fun hend => ?_, fun hfit hlen => ?_, fun hfit hlen hend => ?_,
    fun hfit hlen htag => ?_, fun hfit hlen htag hend => ?_, fun hfit hlen htag hstrict hcrc => ?_⟩
  · rw [← chunkCrc_iend htag] at hcrc ⊢
    have hread := readIend_good hlen htag hfit hcrc
    rw [low32_of_toNat] at hread
    exact parseIend_ends hread
  · exact parseIend_fails ((readIend_no_length hend).trans (congrArg _ (low32_of_toNat _)))
  · exact parseIend_fails (readIend_bad_length hfit hlen)
  · exact parseIend_fails (low32_add s.poff 4 ▸ readIend_no_tag hlen hfit hend)
  · exact parseIend_fails (readIend_bad_tag hlen hfit htag)
  · exact parseIend_fails (low32_add s.poff 8 ▸ readIend_no_trailer hlen htag hfit hend)
  · rw [← chunkCrc_iend htag] at hcrc ⊢
    exact parseIend_fails (readIend_bad_trailer hlen htag hfit hstrict hcrc)

end

section
/-! `DECODE` by the first of its four stages that does not read (R174 to R179): O31, O32, O33. -/

namespace Sys2Proof.Machine

variable {s t u : State} {g : Stage} {p : Word} {e : ErrCode} {info : Word}

/-! ### The four reads of a stream -/

/-- The four chunks read one behind the other, from the start of the buffer (R175). -/
structure StreamReads (s : State) (b : List Byte) (r : IhdrRec) (d : IdatRec) (e : IendRec) : Prop where
  sig : s.readSig = .ok b
  ihdr : s.readIhdr 8 = .ok r
  idat : s.readIdat 33 = .ok d
  iend : s.readIend (45 + d.len.toNat) = .ok e

/-- The first stage whose chunk does not read, with the offset it starts at, its error and its detail (R176). -/
inductive FirstFailure (s : State) : Stage → Word → ErrCode → Word → Prop where
  | signature {e : ErrCode} {info : Word} (hsig : s.readSig = .err e info) : FirstFailure s .signature 0 e info
  | ihdr {b : List Byte} {e : ErrCode} {info : Word} (hsig : s.readSig = .ok b)
      (hihdr : s.readIhdr 8 = .err e info) : FirstFailure s .ihdr 8 e info
  | idat {b : List Byte} {r : IhdrRec} {e : ErrCode} {info : Word} (hsig : s.readSig = .ok b)
      (hihdr : s.readIhdr 8 = .ok r) (hidat : s.readIdat 33 = .err e info) : FirstFailure s .idat 33 e info
  | iend {b : List Byte} {r : IhdrRec} {d : IdatRec} {e : ErrCode} {info : Word} (hsig : s.readSig = .ok b)
      (hihdr : s.readIhdr 8 = .ok r) (hidat : s.readIdat 33 = .ok d)
      (hiend : s.readIend (45 + d.len.toNat) = .err e info) :
      FirstFailure s .iend (low32 (45 + d.len.toNat)) e info

theorem streamReads_or_firstFailure (s : State) :
    (∃ b r d e, StreamReads s b r d e) ∨ ∃ g p e info, FirstFailure s g p e info := by
  cases hsig : s.readSig with
  | err => exact .inr ⟨_, _, _, _, .signature hsig⟩
  | ok b =>
    cases hihdr : s.readIhdr 8 with
    | err => exact .inr ⟨_, _, _, _, .ihdr hsig hihdr⟩
    | ok r =>
      cases hidat : s.readIdat 33 with
      | err => exact .inr ⟨_, _, _, _, .idat hsig hihdr hidat⟩
      | ok d =>
        cases hiend : s.readIend (45 + d.len.toNat) with
        | err => exact .inr ⟨_, _, _, _, .iend hsig hihdr hidat hiend⟩
        | ok e => exact .inl ⟨b, r, d, e, hsig, hihdr, hidat, hiend⟩

theorem FirstFailure.err_ne_ok (h : FirstFailure s g p e info) : e ≠ .ok := by
  cases h with
  | signature hsig => obtain ⟨-, rfl, -⟩ := State.readSig_err hsig; decide
  | ihdr _ hihdr => exact stagedErrors_ne_ok (readIhdr_err_staged hihdr)
  | idat _ _ hidat => exact stagedErrors_ne_ok (readIdat_err_staged hidat)
  | iend _ _ _ hiend => exact stagedErrors_ne_ok (readIend_err_staged hiend)

/-- Where the IEND chunk starts (R175). -/
theorem idat_end_toNat {d : IdatRec} (h : s.readIdat 33 = .ok d) :
    (low32 (45 + d.len.toNat)).toNat = 45 + d.len.toNat :=
  low32_toNat_le (w := s.buflen) (by have := readIdat_fits h; omega)

theorem readIdat_len {o : Nat} {d : IdatRec} (h : s.readIdat o = .ok d) : d.len = s.be32 o := by
  obtain ⟨-, -, -, rfl⟩ := State.readIdat_ok h
  rfl

/-! ### How `DECODE` ends -/

theorem Body.andThen_of_raised {b : Body} {f : State → Body} (h : b = .raised u e g info) :
    b.andThen f = .raised u e g info := by
  rw [h]; rfl

theorem exec_decode_of_reads {b : List Byte} {r : IhdrRec} {d : IdatRec} {e : IendRec} (h : StreamReads s b r d e) :
    exec .decode s = .next (s.decoded b r d e).finish :=
  congrArg Body.close (decodeBody_of_reads h.sig h.ihdr h.idat h.iend)

/-- `PSTAT` of a decoded stream whose trailers match (R40). -/
theorem pstat_of_decoded {b : List Byte} {r : IhdrRec} {d : IdatRec} {e : IendRec} (hd : d.crc = d.crcCalc)
    (he : e.crc = e.crcCalc) : (s.decoded b r d e).finish.pstat = 0x71F := by
  have hidat : (d.crc == d.crcCalc) = true := beq_iff_eq.2 hd
  have hiend : (e.crc == e.crcCalc) = true := beq_iff_eq.2 he
  unfold State.pstat State.decoded
  simp only [State.finish_sig, State.finish_ihdr, State.finish_idat, State.finish_iend, State.finish_decV,
    Option.isSome_some, Option.any_some, hidat, hiend]
  rfl

/-- The stages stop at the first failure, with `POFF` where that stage starts (R174, R176). -/
theorem decodeStages_of_failure (h : FirstFailure s g p e info) :
    ∃ u, s.decodeStart.decodeStages = .raised u e g info ∧ u.poff = p := by
  have h33 : (low32 (8 + 25)).toNat = 33 := rfl
  unfold State.decodeStages
  cases h with
  | signature hsig => exact ⟨_, Body.andThen_of_raised (sigBody_of_err (s := s) ⟨rfl, rfl, rfl⟩ hsig), rfl⟩
  | ihdr hsig hihdr =>
    exact ⟨_, Eq.trans (Body.andThen_of_done (sigBody_of_read (s := s) ⟨rfl, rfl, rfl⟩ hsig))
      (Body.andThen_of_raised (ihdrBody_of_err (s := s) ⟨rfl, rfl, rfl⟩ rfl hihdr)), rfl⟩
  | idat hsig hihdr hidat =>
    exact ⟨_, Eq.trans (Body.andThen_of_done (sigBody_of_read (s := s) ⟨rfl, rfl, rfl⟩ hsig))
      (Eq.trans (Body.andThen_of_done (ihdrBody_of_read (s := s) (o := 8) ⟨rfl, rfl, rfl⟩ rfl hihdr))
        (Body.andThen_of_raised (idatBody_of_err (s := s) ⟨rfl, rfl, rfl⟩ rfl h33 hidat))), rfl⟩
  | iend hsig hihdr hidat hiend =>
    have h45 := idat_end_toNat hidat
    exact ⟨_, Eq.trans (Body.andThen_of_done (sigBody_of_read (s := s) ⟨rfl, rfl, rfl⟩ hsig))
      (Eq.trans (Body.andThen_of_done (ihdrBody_of_read (s := s) (o := 8) ⟨rfl, rfl, rfl⟩ rfl hihdr))
        (Eq.trans (Body.andThen_of_done (idatBody_of_read (s := s) ⟨rfl, rfl, rfl⟩ rfl h33 hidat))
          (iendBody_of_err (s := s) ⟨rfl, rfl, rfl⟩ rfl h45 hiend))), rfl⟩

/-- What the stages have written is cleared again, but for the cursor. -/
theorem ParserUpdate.clearRecords (h : ParserUpdate s u) :
    { u.clearRecords with pcons := 0 } = { s.clearRecords with poff := u.poff, pcons := 0 } := by
  obtain ⟨_, _, _, _, _, _, _, rfl⟩ := h
  rfl

/-- A failed `DECODE` has cleared the records and stands at the start of the failing stage (R176). -/
theorem exec_decode_of_failure (h : FirstFailure s g p e info) :
    exec .decode s = .next (State.raise { s.clearRecords with poff := p, pcons := 0 } e g info) := by
  obtain ⟨u, hu, rfl⟩ := decodeStages_of_failure h
  have hleaves := decodeStages_leaves s.decodeStart
  rw [hu] at hleaves
  obtain ⟨hstages, -⟩ := hleaves
  have hupdate := (decodeStart_update s).trans hstages
  change s.decodeBody.close = _
  unfold State.decodeBody
  rw [hu, ← hupdate.clearRecords]
  rfl

/-! ### The parse commands one behind the other -/

theorem EndsRaised.status_eq (h : EndsRaised e g info t) : t.status = ⟨e, g, true⟩ := by
  rw [← h.err, ← h.stage, ← h.sticky]

theorem EndsRaised.same_outcome (hs : EndsRaised e g info s) (ht : EndsRaised e g info t) :
    t.status = s.status ∧ t.errinfo = s.errinfo :=
  ⟨ht.status_eq.trans hs.status_eq.symm, ht.errinfo.trans hs.errinfo.symm⟩

/-- A parse command leaves what the next one reads: the valid bytes and the policy (R75). -/
theorem exec_parse_sameBuffer {i : Instr} (hi : i ∈ parseCommands) (h : exec i s = .next t) :
    SameBuffer s t ∧ t.strict = s.strict := by
  obtain ⟨u, status, errinfo, hu, rfl⟩ := exec_touches h
  simp only [parseCommands, List.mem_cons, List.not_mem_nil, or_false] at hi
  obtain rfl | rfl | rfl | rfl | rfl := hi <;> obtain ⟨_, _, _, _, _, _, _, rfl⟩ := hu <;>
    exact ⟨⟨rfl, rfl, rfl⟩, rfl⟩

/-- `DECODE` ends with the error of the parse command that fails as its first failing stage does (R179). -/
theorem decode_surfaces (hfail : FirstFailure s g p e info) (hu : EndsRaised e g info u)
    (ht : exec .decode s = .next t) :
    t.status.err ≠ .ok ∧ u.status.err ≠ .ok ∧ t.status = u.status ∧ t.errinfo = u.errinfo := by
  cases ht.symm.trans (exec_decode_of_failure hfail)
  exact ⟨hfail.err_ne_ok, hu.err ▸ hfail.err_ne_ok, hu.same_outcome (State.raise_ends _ _ _ _)⟩

/-! What a parse command does in a state `t` with the buffer and the policy of `s`, by what `s` reads. -/

theorem exec_parseSig_cases (h : exec .parseSig s = .next u) :
    (∃ b, s.readSig = .ok b ∧ ParseEnds .parseSig 0 8 s u ∧ u.sig = some b) ∨
    ∃ e info, s.readSig = .err e info ∧ EndsRaised e .signature info u := by
  cases hread : s.readSig with
  | ok b =>
    obtain ⟨_, hu, hends⟩ := parseSig_ends hread
    cases h.symm.trans hu
    exact .inl ⟨b, rfl, hends⟩
  | err e info =>
    obtain ⟨_, hu, hends⟩ := parseSig_fails hread
    cases h.symm.trans hu
    exact .inr ⟨e, info, rfl, hends.raised⟩

section Stage

variable {o : Nat} (hst : SameBuffer s t) (hs : t.strict = s.strict) (ho : t.poff.toNat = o)
include hst ho

theorem exec_parseIhdr_cases (h : exec .parseIhdr t = .next u) :
    (∃ r, s.readIhdr o = .ok r ∧ ParseEnds .parseIhdr o 25 t u ∧ u.ihdr = some r) ∨
    ∃ e info, s.readIhdr o = .err e info ∧ EndsRaised e .ihdr info u := by
  subst ho
  rw [← hst.readIhdr]
  cases hread : t.readIhdr t.poff.toNat with
  | ok r =>
    obtain ⟨_, hu, hends⟩ := parseIhdr_ends hread
    cases h.symm.trans hu
    exact .inl ⟨r, rfl, hends⟩
  | err e info =>
    obtain ⟨_, hu, hends⟩ := parseIhdr_fails hread
    cases h.symm.trans hu
    exact .inr ⟨e, info, rfl, hends.raised⟩

include hs

theorem exec_parseIdat_cases (h : exec .parseIdat t = .next u) :
    (∃ d, s.readIdat o = .ok d ∧ ParseEnds .parseIdat o (12 + d.len.toNat) t u ∧ u.idat = some d) ∨
    ∃ e info, s.readIdat o = .err e info ∧ EndsRaised e .idat info u := by
  subst ho
  rw [← hst.readIdat hs]
  cases hread : t.readIdat t.poff.toNat with
  | ok d =>
    obtain ⟨_, hu, hends⟩ := parseIdat_ends hread
    cases h.symm.trans hu
    exact .inl ⟨d, rfl, hends⟩
  | err e info =>
    obtain ⟨_, hu, hends⟩ := parseIdat_fails hread
    cases h.symm.trans hu
    exact .inr ⟨e, info, rfl, hends.raised⟩

theorem exec_parseIend_cases (h : exec .parseIend t = .next u) :
    (∃ e, s.readIend o = .ok e ∧ ParseEnds .parseIend o 12 t u ∧ u.iend = some e) ∨
    ∃ e info, s.readIend o = .err e info ∧ EndsRaised e .iend info u := by
  subst ho
  rw [← hst.readIend hs]
  cases hread : t.readIend t.poff.toNat with
  | ok e =>
    obtain ⟨_, hu, hends⟩ := parseIend_ends hread
    cases h.symm.trans hu
    exact .inl ⟨e, rfl, hends⟩
  | err e info =>
    obtain ⟨_, hu, hends⟩ := parseIend_fails hread
    cases h.symm.trans hu
    exact .inr ⟨e, info, rfl, hends.raised⟩

end Stage

end Sys2Proof.Machine

open Sys2Proof Sys2Proof.Machine

/-- Settles O31: the stream in the buffer reads chunk by chunk as what it was made with. -/
theorem decodeRecoversStream : Obligations.DecodeRecoversStream := by
  intro s width height bd ct cm fm im payload hfit hbytes
  have hholds : s.holds 0 (pngBytes width height bd ct cm fm im payload) := by
    rw [State.holds, pngBytes_length]
    exact hbytes
  obtain ⟨hsig, hihdr, hidat, hiend⟩ := State.holds_png hholds
  have hn : (low32 payload.length).toNat = payload.length := low32_toNat_le (w := s.buflen) (by omega)
  have hend : (low32 (57 + (low32 payload.length).toNat)).toNat = 57 + payload.length := by
    rw [hn]
    exact low32_toNat_le hfit
  have hdec := exec_decode_of_reads ⟨readSig_of_holds (by omega) hsig, readIhdr_of_holds (by omega) hihdr,
    readIdat_of_holds (by omega) hidat,
    (congrArg (s.readIend <| 45 + ·) hn).trans (readIend_of_holds (by omega) hiend)⟩
  exact ⟨_, _, _, _, hdec, ⟨rfl, rfl, rfl, rfl⟩, ParserUpdate.finish_frame ⟨_, _, _, _, _, _, _, rfl⟩, rfl, rfl,
    rfl, rfl, rfl, rfl, rfl, rfl, rfl, rfl, rfl, rfl, rfl, rfl, hn, rfl, rfl, low32_toNat_le (w := s.buflen) (by omega),
    rfl, hend, rfl, pstat_of_decoded rfl rfl⟩

/-- Settles O32: whichever stage fails first, `DECODE` clears what the stages before it left. -/
theorem failedDecodeLeavesNothing : Obligations.FailedDecodeLeavesNothing := by
  intro s t h hne
  obtain ⟨b, r, d, e, hreads⟩ | ⟨g, p, e, info, hfail⟩ := streamReads_or_firstFailure s
  · cases h.symm.trans (exec_decode_of_reads hreads)
    exact absurd rfl hne
  cases h.symm.trans (exec_decode_of_failure hfail)
  refine ⟨ParserUpdate.raise_frame ⟨_, _, _, _, _, _, _, rfl⟩ _ _ _, rfl, rfl, rfl, rfl, rfl, rfl, ?_⟩
  cases hfail with
  | signature => exact .inl ⟨rfl, rfl⟩
  | ihdr => exact .inr (.inl ⟨rfl, rfl⟩)
  | idat => exact .inr (.inr (.inl ⟨rfl, rfl⟩))
  | iend _ _ hidat => exact .inr (.inr (.inr ⟨rfl, readIdat_len hidat ▸ idat_end_toNat hidat⟩))

/-- Settles O33: the four commands and the four stages read the same chunks at the same offsets. -/
theorem decodeEqualsFourParses : Obligations.DecodeEqualsFourParses := by
  intro s t1 t2 t3 t4 t h1 h2 h3 h4 ht
  obtain ⟨hbuf1, hs1⟩ := exec_parse_sameBuffer (by decide) h1
  obtain ⟨hbuf2, hs2⟩ := exec_parse_sameBuffer (by decide) h2
  obtain ⟨hbuf3, hs3⟩ := exec_parse_sameBuffer (by decide) h3
  replace hbuf2 := hbuf1.trans hbuf2
  replace hbuf3 := hbuf2.trans hbuf3
  replace hs2 := hs2.trans hs1
  replace hs3 := hs3.trans hs2
  obtain ⟨b, hsig, hends1, hb⟩ | ⟨e, info, hsig, hraised⟩ := exec_parseSig_cases h1
  case inr =>
    obtain ⟨hne, hne1, hout⟩ := decode_surfaces (.signature hsig) hraised ht
    exact ⟨⟨fun h => absurd h hne, fun h => absurd h.1 hne1⟩, fun h => absurd h hne, fun _ => hout,
      fun h => absurd h hne1, fun h => absurd h hne1, fun h => absurd h hne1⟩
  have hok1 := hends1.ok.err
  obtain ⟨r, hihdr, hends2, hr⟩ | ⟨e, info, hihdr, hraised⟩ := exec_parseIhdr_cases hbuf1 hends1.poff h2
  case inr =>
    obtain ⟨hne, hne2, hout⟩ := decode_surfaces (.ihdr hsig hihdr) hraised ht
    exact ⟨⟨fun h => absurd h hne, fun ⟨_, h, _⟩ => absurd h hne2⟩, fun h => absurd h hne, absurd hok1,
      fun _ _ => hout, fun _ h => absurd h hne2, fun _ h => absurd h hne2⟩
  have hok2 := hends2.ok.err
  obtain ⟨d, hidat, hends3, hd⟩ | ⟨e, info, hidat, hraised⟩ := exec_parseIdat_cases hbuf2 hs2 hends2.poff h3
  case inr =>
    obtain ⟨hne, hne3, hout⟩ := decode_surfaces (.idat hsig hihdr hidat) hraised ht
    exact ⟨⟨fun h => absurd h hne, fun ⟨_, _, h, _⟩ => absurd h hne3⟩, fun h => absurd h hne, absurd hok1,
      fun _ => absurd hok2, fun _ _ _ => hout, fun _ _ h => absurd h hne3⟩
  have hok3 := hends3.ok.err
  have h45 : t3.poff.toNat = 45 + d.len.toNat := hends3.poff.trans (by omega)
  obtain ⟨e, hiend, hends4, he⟩ | ⟨e, info, hiend, hraised⟩ := exec_parseIend_cases hbuf3 hs3 h45 h4
  case inr =>
    obtain ⟨hne, hne4, hout⟩ := decode_surfaces (.iend hsig hihdr hidat hiend) hraised ht
    exact ⟨⟨fun h => absurd h hne, fun ⟨_, _, _, h⟩ => absurd h hne4⟩, fun h => absurd h hne, absurd hok1,
      fun _ => absurd hok2, fun _ _ => absurd hok3, fun _ _ _ _ => hout⟩
  have hok4 := hends4.ok.err
  cases ht.symm.trans (exec_decode_of_reads ⟨hsig, hihdr, hidat, hiend⟩)
  have hsig4 : t4.sig = some b :=
    ((hends4.sig nofun).trans (hends3.sig nofun)).trans ((hends2.sig nofun).trans hb)
  have hihdr4 : t4.ihdr = some r := ((hends4.ihdr nofun).trans (hends3.ihdr nofun)).trans hr
  have hidat4 : t4.idat = some d := (hends4.idat nofun).trans hd
  have hpoff4 : low32 (57 + d.len.toNat) = t4.poff := by
    rw [← low32_of_toNat t4.poff, hends4.poff]
    exact congrArg low32 (by omega)
  exact ⟨⟨fun _ => ⟨hok1, hok2, hok3, hok4⟩, fun _ => rfl⟩,
    fun _ => ⟨hsig4.symm, hihdr4.symm, hidat4.symm, he.symm, hpoff4, hends4.decV,
      BitVec.eq_of_toNat_eq hends4.pcons, rfl, rfl⟩,
    absurd hok1, fun _ => absurd hok2, fun _ _ => absurd hok3, fun _ _ _ => absurd hok4⟩

end

section
/-! How the three Huffman commands end, by the tree held and the option (R206, R207, R212 to R214, R216): O35, O39 to
O42. -/

namespace Sys2Proof.Machine

variable {s t u : State}

/-! ### The frame -/

theorem HuffmanUpdate.of_ends (h : HuffmanUpdate s u) (ht : Ends u t) : HuffmanFrame s t := by
  obtain ⟨status, errinfo, rfl⟩ := ht.eq_update
  exact h.frame status errinfo

/-- The three Huffman commands leave the rest of the block alone (R217). -/
theorem exec_huffTree_frame (h : exec .huffTree s = .next t) : HuffmanFrame s t := by
  obtain ⟨u, hu, ht⟩ := (huffTreeBody_leaves s).close h
  exact hu.of_ends ht

theorem exec_huffTable_frame (h : exec .huffTable s = .next t) : HuffmanFrame s t ∧ SameTree s t := by
  obtain ⟨u, hu, ht⟩ := (huffTableBody_leaves s).close h
  refine ⟨hu.huffman.of_ends ht, ?_⟩
  obtain ⟨code, tableV, rfl⟩ := hu
  obtain ⟨status, errinfo, rfl⟩ := ht.eq_update
  exact ⟨rfl, rfl, rfl, rfl, rfl, rfl, rfl⟩

/-! ### `HUFF_TREE` -/

/-- What the body of `HUFF_TREE` leaves of a sequence with these counts (R206). -/
def State.withTree (s : State) (freq : Table Nat) : State :=
  { s.clearHuffman with
    freq := freq, node := (buildTree freq).1, hroot := low32 (buildTree freq).2
    hnsym := low32 freq.length, hnnode := low32 (2 * freq.length - 1)
    degen := freq.length == 1, treeV := true }

theorem huffTreeBody_of_empty (h : s.symlen = 0) : s.huffTreeBody = .raised s.clearHuffman .emptyInput .none 0 := by
  obtain ⟨-, he⟩ | ⟨hne, -⟩ := s.huffTreeBody_cases
  · exact he
  · exact absurd h hne

theorem huffTreeBody_of_symbols (h : s.symlen ≠ 0) : s.huffTreeBody = .done (s.withTree (countSymbols s.symbols)) := by
  obtain ⟨he, -⟩ | ⟨-, freq, rfl, he⟩ := s.huffTreeBody_cases
  · exact absurd he h
  · exact he

/-- `HUFF_TREE` of no symbols (R207). -/
theorem exec_huffTree_of_empty (h : s.symlen = 0) :
    exec .huffTree s = .next (s.clearHuffman.raise .emptyInput .none 0) :=
  congrArg Body.close (huffTreeBody_of_empty h)

theorem exec_huffTree_of_symbols (h : s.symlen ≠ 0) :
    exec .huffTree s = .next (s.withTree (countSymbols s.symbols)).finish :=
  congrArg Body.close (huffTreeBody_of_symbols h)

/-! ### `HUFF_TABLE` -/

theorem exec_huffTable_of_noTree (h : s.treeV = false) : exec .huffTable s = .next (s.raise .noTree .none 0) := by
  change s.huffTableBody.close = _
  obtain ⟨-, he⟩ | ⟨ht, -⟩ | ⟨ht, -⟩ | ⟨ht, -⟩ := s.huffTableBody_cases
  · rw [he]; rfl
  all_goals exact absurd (h.symm.trans ht) (by decide)

/-- With a tree, `HUFF_TABLE` raises `DegenerateTree` on a single leaf under `DEGEN_ERR`, gives it the code `0` under
the other option, and otherwise emits the table of the tree (R212, R214). -/
theorem exec_huffTable_cases (h : s.treeV = true) :
    (s.degen = true ∧ s.degenErr = true ∧
      exec .huffTable s = .next (State.raise { s with tableV := false, code := [] } .degenerateTree .none 0)) ∨
    (s.degen = true ∧ s.degenErr = false ∧
      exec .huffTable s = .next (State.finish { s with
        code := [((s.nodeWord (2 * s.hroot.toNat + 1)).toNat % 256, [false])], tableV := true })) ∨
    (s.degen = false ∧
      exec .huffTable s = .next (State.finish { s with code := codeTable s.node s.hroot.toNat, tableV := true })) := by
  obtain ⟨ht, -⟩ | ⟨-, hd, hr, he⟩ | ⟨-, hd, hr, he⟩ | ⟨-, hd, he⟩ := s.huffTableBody_cases
  · exact absurd (h.symm.trans ht) (by decide)
  · exact .inl ⟨hd, hr, congrArg Body.close he⟩
  · exact .inr (.inl ⟨hd, hr, congrArg Body.close he⟩)
  · exact .inr (.inr ⟨hd, congrArg Body.close he⟩)

theorem exec_huffTable_of_degenErr (h : s.treeV = true) (hd : s.degen = true) (hr : s.degenErr = true) :
    exec .huffTable s = .next (State.raise { s with tableV := false, code := [] } .degenerateTree .none 0) := by
  obtain ⟨-, -, he⟩ | ⟨-, hr', -⟩ | ⟨hd', -⟩ := exec_huffTable_cases h
  · exact he
  · exact absurd (hr.symm.trans hr') (by decide)
  · exact absurd (hd.symm.trans hd') (by decide)

theorem exec_huffTable_of_degen (h : s.treeV = true) (hd : s.degen = true) (hr : s.degenErr = false) :
    exec .huffTable s = .next (State.finish { s with
      code := [((s.nodeWord (2 * s.hroot.toNat + 1)).toNat % 256, [false])], tableV := true }) := by
  obtain ⟨-, hr', -⟩ | ⟨-, -, he⟩ | ⟨hd', -⟩ := exec_huffTable_cases h
  · exact absurd (hr'.symm.trans hr) (by decide)
  · exact he
  · exact absurd (hd.symm.trans hd') (by decide)

theorem exec_huffTable_of_tree (h : s.treeV = true) (hd : s.degen = false) :
    exec .huffTable s = .next (State.finish { s with code := codeTable s.node s.hroot.toNat, tableV := true }) := by
  obtain ⟨hd', -⟩ | ⟨hd', -⟩ | ⟨-, he⟩ := exec_huffTable_cases h
  · exact absurd (hd'.symm.trans hd) (by decide)
  · exact absurd (hd'.symm.trans hd) (by decide)
  · exact he

/-- The symbol of a single leaf at root 0 gets the code `0` (R214). -/
theorem exec_huffTable_of_leaf {sym : Byte} {w : Nat} (h : s.treeV = true) (hd : s.degen = true)
    (hr : s.degenErr = false) (hnode : s.node = [.leaf sym w]) (hroot : s.hroot = 0) :
    exec .huffTable s = .next (State.finish { s with code := [(sym.toNat, [false])], tableV := true }) := by
  have hsym : (s.nodeWord (2 * s.hroot.toNat + 1)).toNat % 256 = sym.toNat := by
    rw [hroot]; unfold State.nodeWord; rw [hnode]; exact HNode.leaf_info_sym sym w
  rw [exec_huffTable_of_degen h hd hr, hsym]

/-- The outcome of the command before does not matter to `HUFF_TABLE` (R258). -/
theorem exec_huffTable_finish (s : State) : exec .huffTable s.finish = exec .huffTable s := by
  cases ht : s.treeV with
  | false => rw [exec_huffTable_of_noTree ht, exec_huffTable_of_noTree (s := s.finish) ht]; rfl
  | true =>
    obtain ⟨hd, hr, he⟩ | ⟨hd, hr, he⟩ | ⟨hd, he⟩ := exec_huffTable_cases ht <;> rw [he]
    · exact exec_huffTable_of_degenErr (s := s.finish) ht hd hr
    · exact exec_huffTable_of_degen (s := s.finish) ht hd hr
    · exact exec_huffTable_of_tree (s := s.finish) ht hd

/-! ### `HUFF_ALL` -/

theorem exec_huffAll_of_empty (h : s.symlen = 0) :
    exec .huffAll s = .next (s.clearHuffman.raise .emptyInput .none 0) := by
  change (s.huffTreeBody.andThen State.huffTableBody).close = _
  rw [huffTreeBody_of_empty h]; rfl

/-- `HUFF_ALL` is `HUFF_TABLE` on what `HUFF_TREE` leaves (R216). -/
theorem exec_huffAll_of_symbols (h : s.symlen ≠ 0) :
    exec .huffAll s = exec .huffTable (s.withTree (countSymbols s.symbols)) := by
  change (s.huffTreeBody.andThen State.huffTableBody).close = _
  rw [huffTreeBody_of_symbols h]; rfl

theorem exec_huffAll_frame (h : exec .huffAll s = .next t) : HuffmanFrame s t := by
  obtain ⟨u, hu, ht⟩ := ((huffTreeBody_leaves s).andThen fun u hu =>
    (huffTableBody_leaves u).imp fun _ hv => hu.trans hv.huffman).close h
  exact hu.of_ends ht

/-! ### The counts -/

/-- The distinct symbol values of the sequence, in increasing order (R201, R202). -/
def State.distinct (s : State) : List Nat :=
  (List.range 256).filter fun v => decide (0 < s.count (BitVec.ofNat 8 v))

/-- The count of R201 by the symbol's number. -/
theorem State.count_eq_countP (s : State) (b : Byte) : s.count b = s.symbols.countP fun x => x.toNat == b.toNat :=
  List.countP_congr fun x _ => by simp [BitVec.toNat_inj]

theorem filterMap_counts_eq_map (f : Nat → Nat) (l : List Nat) :
    (l.filterMap fun v => if f v = 0 then none else some (v, f v)) =
      (l.filter fun v => decide (0 < f v)).map fun v => (v, f v) := by
  induction l with
  | nil => rfl
  | cons v l ih =>
    by_cases h : f v = 0
    · simp [h, ih]
    · simp [h, ih, Nat.pos_of_ne_zero h]

/-- The table of the counts lists the distinct symbols in order, each with its count (R201). -/
theorem countSymbols_symbols (s : State) :
    countSymbols s.symbols = s.distinct.map fun v => (v, s.count (BitVec.ofNat 8 v)) := by
  unfold State.distinct
  rw [← filterMap_counts_eq_map fun v => s.count (BitVec.ofNat 8 v)]
  refine List.filterMap_congr fun v hv => ?_
  have hv : (BitVec.ofNat 8 v).toNat = v := by simpa using List.mem_range.1 hv
  rw [s.count_eq_countP, hv]

/-- The table of the counts depends on the counts only (R201). -/
theorem countSymbols_congr (h : ∀ b : Byte, s.count b = u.count b) : countSymbols s.symbols = countSymbols u.symbols := by
  rw [countSymbols_symbols, countSymbols_symbols]
  unfold State.distinct
  simp only [h]

/-- On the same nodes, root, degenerate flag and option, `HUFF_TABLE` makes the same table and ends alike. -/
theorem exec_huffTable_congr {s' u' : State} (htree : SameTree s u) (hcfg : s.cfg = u.cfg) (ht : s.treeV = true)
    (hs : exec .huffTable s = .next s') (hu : exec .huffTable u = .next u') :
    SameTable s' u' ∧ u'.status.err = s'.status.err := by
  have htu : u.treeV = true := htree.treeV.trans ht
  have hopt : u.degenErr = s.degenErr := congrArg (·.getLsbD 1) hcfg.symm
  have hword : u.nodeWord (2 * u.hroot.toNat + 1) = s.nodeWord (2 * s.hroot.toNat + 1) := by
    unfold State.nodeWord; rw [htree.node, htree.hroot]
  obtain ⟨hd, hr, he⟩ | ⟨hd, hr, he⟩ | ⟨hd, he⟩ := exec_huffTable_cases ht <;> rw [he] at hs <;> cases hs
  · rw [exec_huffTable_of_degenErr htu (htree.degen.trans hd) (hopt.trans hr)] at hu
    cases hu; exact ⟨⟨rfl, rfl⟩, rfl⟩
  · rw [exec_huffTable_of_degen htu (htree.degen.trans hd) (hopt.trans hr), hword] at hu
    cases hu; exact ⟨⟨rfl, rfl⟩, rfl⟩
  · rw [exec_huffTable_of_tree htu (htree.degen.trans hd), htree.node, htree.hroot] at hu
    cases hu; exact ⟨⟨rfl, rfl⟩, rfl⟩

end Sys2Proof.Machine

open Sys2Proof Sys2Proof.Machine

/-- Settles O35: both commands end in the same cleared state. -/
theorem huffTreeOfNothingRaises : Obligations.HuffTreeOfNothingRaises := by
  intro s h
  have htree := exec_huffTree_of_empty h
  exact ⟨_, htree, State.raise_ends _ _ _ _, exec_huffTree_frame htree, exec_huffAll_of_empty h,
    hstat_of_cleared rfl rfl rfl, rfl, rfl, rfl, freqWord_of_nil rfl, nodeWord_of_nil rfl, codeWord_of_nil rfl⟩

/-- Settles O39: the tree is a function of the counts, and the table one of the tree and the option. -/
theorem treeDependsOnCountsOnly : Obligations.TreeDependsOnCountsOnly := by
  intro s u s' u' hlen hcfg hcount hs hu
  by_cases h : s.symlen = 0
  · rw [exec_huffAll_of_empty h] at hs
    rw [exec_huffAll_of_empty (hlen.symm.trans h)] at hu
    cases hs; cases hu
    exact ⟨⟨rfl, rfl, rfl, rfl, rfl, rfl, rfl⟩, ⟨rfl, rfl⟩, rfl⟩
  · rw [exec_huffAll_of_symbols h] at hs
    rw [exec_huffAll_of_symbols fun e => h (hlen.trans e), ← countSymbols_congr hcount] at hu
    have htree : SameTree (s.withTree (countSymbols s.symbols)) (u.withTree (countSymbols s.symbols)) :=
      ⟨rfl, rfl, rfl, rfl, rfl, rfl, rfl⟩
    obtain ⟨-, hts⟩ := exec_huffTable_frame hs
    obtain ⟨-, htu⟩ := exec_huffTable_frame hu
    refine ⟨⟨htu.treeV.trans hts.treeV.symm, htu.degen.trans hts.degen.symm, htu.hnsym.trans hts.hnsym.symm,
      htu.hroot.trans hts.hroot.symm, htu.hnnode.trans hts.hnnode.symm, htu.freq.trans hts.freq.symm,
      htu.node.trans hts.node.symm⟩, exec_huffTable_congr htree hcfg rfl hs hu⟩

/-- Settles O40: `HUFF_TABLE` runs on what `HUFF_TREE` leaves, whichever outcome it has written. -/
theorem huffAllIsTreeThenTable : Obligations.HuffAllIsTreeThenTable := by
  refine ⟨by decide, fun s h => ?_, fun s h => ?_, fun s t hall herr h => ?_⟩
  · obtain ⟨t, ht⟩ := Body.close_next (s.withTree (countSymbols s.symbols)).huffTableBody
    change exec .huffTable _ = _ at ht
    have hall := (exec_huffAll_of_symbols h).trans ht
    obtain ⟨-, hsame⟩ := exec_huffTable_frame ht
    refine ⟨_, t, exec_huffTree_of_symbols h, (exec_huffTable_finish _).trans ht, hall, exec_huffAll_frame hall,
      hsame.treeV, fun hr => ?_⟩
    obtain ⟨-, hr', -⟩ | ⟨-, -, he⟩ | ⟨-, he⟩ :=
      exec_huffTable_cases (s := s.withTree (countSymbols s.symbols)) rfl
    · exact absurd (hr.symm.trans hr') (by decide)
    all_goals rw [he] at ht; cases ht; exact ⟨⟨rfl, rfl, rfl, rfl⟩, rfl⟩
  · exact ⟨_, exec_huffTree_of_empty h, exec_huffAll_of_empty h, State.raise_ends _ _ _ _, rfl, rfl⟩
  · rw [exec_huffAll_of_symbols h] at hall
    obtain ⟨-, hr, he⟩ | ⟨-, -, he⟩ | ⟨-, he⟩ :=
      exec_huffTable_cases (s := s.withTree (countSymbols s.symbols)) rfl <;> rw [he] at hall <;> cases hall
    · exact ⟨State.raise_ends _ _ _ _, hr, rfl, rfl⟩
    all_goals exact absurd rfl herr

/-- Settles O41, clause by clause from the ends of `HUFF_TABLE`. -/
theorem huffTableEdgeCases : Obligations.HuffTableEdgeCases := by
  refine ⟨by decide, fun s h => ?_, fun s sym w h hd hnode hroot hr => ?_, fun s h hd hr => ?_,
    fun s u hu hok hd hr => ?_⟩
  · have he := exec_huffTable_of_noTree h
    obtain ⟨hframe, htree⟩ := exec_huffTable_frame he
    exact ⟨_, he, State.raise_ends _ _ _ _, hframe, htree, rfl, rfl⟩
  · have he := exec_huffTable_of_leaf h hd hr hnode hroot
    obtain ⟨hframe, htree⟩ := exec_huffTable_frame he
    refine ⟨_, he, ⟨rfl, rfl, rfl, rfl⟩, hframe, htree, rfl, ?_, fun k hk => ?_⟩
    · simp [State.codeOf, Table.find]
    · simp [State.codeWord, Table.find, hk.symm]
  · have he := exec_huffTable_of_degenErr h hd hr
    obtain ⟨hframe, htree⟩ := exec_huffTable_frame he
    exact ⟨_, he, State.raise_ends _ _ _ _, hframe, htree, rfl, codeWord_of_nil rfl⟩
  · obtain ⟨hne, -⟩ := execHuffTree_ok hu hok
    rw [exec_huffTree_of_symbols hne] at hu
    cases hu
    have he := exec_huffTable_of_degenErr (s := s.withTree (countSymbols s.symbols)) rfl hd hr
    obtain ⟨-, htree⟩ := exec_huffTable_frame he
    have hall := (exec_huffAll_of_symbols hne).trans he
    exact ⟨_, hall, State.raise_ends _ _ _ _, exec_huffAll_frame hall, ⟨rfl, rfl, rfl, rfl, rfl, rfl, rfl⟩, rfl, rfl,
      codeWord_of_nil rfl⟩

/-- Settles O42: the end of `HUFF_TABLE` on such a tree holds neither the earlier table nor its flag. -/
theorem huffTableIsFresh : Obligations.HuffTableIsFresh := by
  intro s h hd
  have he := exec_huffTable_of_tree h hd
  obtain ⟨hframe, htree⟩ := exec_huffTable_frame he
  refine ⟨_, he, ⟨rfl, rfl, rfl, rfl⟩, hframe, htree, rfl, rfl, exec_huffTable_of_tree (s := State.finish _) h hd,
    fun u hu => ?_⟩
  obtain ⟨code, tableV, rfl⟩ : ∃ code tableV, u = { s with code := code, tableV := tableV } := ⟨_, _, hu⟩
  exact exec_huffTable_of_tree h hd

end

section
/-! What every merge takes (R203, R204), and the shape of the tree: the leaves first, then the internal nodes, the root
last (R202, R205): O36, O37. -/

namespace Sys2Proof.Machine

variable {s t : State}

/-! ### Every merge takes the two lightest -/

/-- Node `p` of weight `w` merges `l` and `r`, the two lightest of the nodes live when it is made (R204). -/
structure MergesLightest (ns : List HNode) (p w l r : Nat) : Prop where
  left_live : liveAt ns p l
  right_live : liveAt ns p r
  ne : l ≠ r
  weight : w = weightAt ns l + weightAt ns r
  lighter : nodeLighter ns l r
  least : ∀ k, liveAt ns p k → k ≠ l → k ≠ r → nodeLighter ns r k

/-- Every internal node merges the two lightest. -/
def AllMergeLightest (ns : List HNode) : Prop :=
  ∀ p w l r, ns[p]? = some (.internal w l r) → MergesLightest ns p w l r

variable {n total : Nat} {nodes : List HNode} {live rest : List Live} {f g : Live}

/-- A node with children is a node of the table (R49). -/
theorem childOf_parent_lt {ns : List HNode} {k p : Nat} (h : childOf ns k p) : p < ns.length := by
  obtain ⟨w, l, r, hget, -⟩ := h
  exact (List.getElem?_eq_some_iff.1 hget).1

/-- A merge leaves the live sets of the nodes before it as they were. -/
theorem liveAt_mergeNodes {p k : Nat} (hp : p ≤ nodes.length) :
    liveAt (mergeNodes nodes f g) p k ↔ liveAt nodes p k := by
  refine and_congr_right fun _ => forall_congr' fun q => imp_congr_right fun hq => not_congr ?_
  rw [childOf_mergeNodes]
  exact or_iff_left fun h => absurd h.1 (by omega)

theorem nodeLighter_mergeNodes {x y : Nat} (hx : x < nodes.length) (hy : y < nodes.length) :
    nodeLighter (mergeNodes nodes f g) x y ↔ nodeLighter nodes x y := by
  unfold nodeLighter; rw [weightAt_mergeNodes_old hx, weightAt_mergeNodes_old hy]

theorem MergesLightest.mergeNodes {p w l r : Nat} (hp : p ≤ nodes.length) (h : MergesLightest nodes p w l r) :
    MergesLightest (mergeNodes nodes f g) p w l r := by
  have hl : l < nodes.length := h.left_live.1.trans_le hp
  have hr : r < nodes.length := h.right_live.1.trans_le hp
  refine ⟨(liveAt_mergeNodes hp).2 h.left_live, (liveAt_mergeNodes hp).2 h.right_live, h.ne, ?_,
    (nodeLighter_mergeNodes hl hr).2 h.lighter, fun k hk hkl hkr => ?_⟩
  · rw [weightAt_mergeNodes_old hl, weightAt_mergeNodes_old hr]; exact h.weight
  · have hk := (liveAt_mergeNodes hp).1 hk
    exact (nodeLighter_mergeNodes hr (hk.1.trans_le hp)).2 (h.least k hk hkl hkr)

/-- The live set of the merging is what `liveAt` says of the node to be made next. -/
theorem MergeInv.liveAt_iff (h : MergeInv n total nodes live) {k : Nat} :
    liveAt nodes nodes.length k ↔ k ∈ live.map Live.index := by
  constructor
  · rintro ⟨hk, hfree⟩
    by_contra hnot
    obtain ⟨p, hp, -⟩ := h.owned k hk hnot
    exact hfree p (childOf_parent_lt hp) hp
  · intro hk
    obtain ⟨x, hx, rfl⟩ := List.mem_map.1 hk
    exact ⟨h.live_lt x hx, fun q _ => h.free x hx q⟩

/-- Of two live nodes the one that is not lighter is outweighed by the other, ties going to the smaller index. -/
theorem MergeInv.nodeLighter_of_not_lighter (h : MergeInv n total nodes live) {x y : Live} (hx : x ∈ live)
    (hy : y ∈ live) (hne : x.index ≠ y.index) (hl : lighter y x = false) : nodeLighter nodes x.index y.index := by
  rw [Bool.eq_false_iff, ne_eq, lighter_iff] at hl
  unfold nodeLighter
  rw [h.live_weight x hx, h.live_weight y hy]
  omega

/-- The node made by a merge of the two lightest merges the two lightest. -/
theorem MergeInv.mergesLightest (hf : ∀ z ∈ g :: rest, lighter z f = false) (hg : ∀ z ∈ rest, lighter z g = false)
    (h : MergeInv n total nodes (f :: g :: rest)) :
    MergesLightest nodes nodes.length (f.weight + g.weight) f.index g.index := by
  have hfm : f ∈ f :: g :: rest := by simp
  have hgm : g ∈ f :: g :: rest := by simp
  have hne : f.index ≠ g.index := by
    have hnd := h.live_nodup
    simp only [List.map_cons, List.nodup_cons, List.mem_cons, not_or] at hnd
    exact hnd.1.1
  refine ⟨h.liveAt_iff.2 (by simp), h.liveAt_iff.2 (by simp), hne, ?_,
    h.nodeLighter_of_not_lighter hfm hgm hne (hf g (by simp)), fun k hk hkf hkg => ?_⟩
  · rw [h.live_weight f hfm, h.live_weight g hgm]
  · obtain ⟨z, hz, rfl⟩ := List.mem_map.1 (h.liveAt_iff.1 hk)
    have hzr : z ∈ rest := by
      rcases List.mem_cons.1 hz with rfl | hz
      · exact absurd rfl hkf
      rcases List.mem_cons.1 hz with rfl | hz
      · exact absurd rfl hkg
      · exact hz
    exact h.nodeLighter_of_not_lighter hgm (by simp [hzr]) hkg.symm (hg z hzr)

/-- A merge of the two lightest keeps that every internal node merges the two lightest of its time. -/
theorem AllMergeLightest.step (hf : ∀ z ∈ g :: rest, lighter z f = false) (hg : ∀ z ∈ rest, lighter z g = false)
    (h : MergeInv n total nodes (f :: g :: rest)) (hall : AllMergeLightest nodes) :
    AllMergeLightest (mergeNodes nodes f g) := by
  intro p w l r hget
  have hp := (List.getElem?_eq_some_iff.1 hget).1
  rcases lt_mergeNodes_iff.1 hp with hp | rfl
  · unfold Machine.mergeNodes at hget
    rw [List.getElem?_append_left hp] at hget
    exact (hall p w l r hget).mergeNodes hp.le
  · unfold Machine.mergeNodes at hget
    rw [List.getElem?_concat_length] at hget
    cases hget
    exact (h.mergesLightest hf hg).mergeNodes le_rfl

theorem allMergeLightest_leavesOf (freq : Table Nat) : AllMergeLightest (leavesOf freq) :=
  fun p w l r hget => absurd ⟨w, l, r, hget, .inl rfl⟩ (not_childOf_leavesOf freq l p)

theorem buildTree_merges {freq : Table Nat} (h : ∀ c ∈ freq.map Prod.snd, 1 ≤ c) :
    AllMergeLightest (buildTree freq).1 := by
  have hinv := mergeAll_induction
    (P := fun ns l => MergeInv freq.length (freq.map Prod.snd).sum ns l ∧ AllMergeLightest ns)
    (fun hp h => ⟨h.1.perm hp, h.2⟩) (fun hf hg h => ⟨h.1.step hf hg, h.2.step hf hg h.1⟩)
    (leavesOf freq).length ⟨mergeInv_leaves h, allMergeLightest_leavesOf freq⟩
  exact hinv.2

/-! ### The leaves, then the internal nodes -/

/-- The node table is the leaves of the counts, and internal nodes after them (R202, R204). -/
def LeavesFirst (freq : Table Nat) (ns : List HNode) : Prop :=
  ∃ merged, ns = leavesOf freq ++ merged ∧ ∀ x ∈ merged, ∃ w l r, x = HNode.internal w l r

theorem LeavesFirst.step {freq : Table Nat} (h : LeavesFirst freq nodes) : LeavesFirst freq (mergeNodes nodes f g) := by
  obtain ⟨merged, rfl, hm⟩ := h
  refine ⟨merged ++ [.internal (f.weight + g.weight) f.index g.index], List.append_assoc _ _ _, fun x hx => ?_⟩
  rcases List.mem_append.1 hx with hx | hx
  · exact hm x hx
  · exact ⟨_, _, _, List.mem_singleton.1 hx⟩

theorem buildTree_leavesFirst (freq : Table Nat) : LeavesFirst freq (buildTree freq).1 :=
  mergeAll_induction (P := fun ns _ => LeavesFirst freq ns) (fun _ h => h) (fun _ _ h => h.step) (leavesOf freq).length
    ⟨[], (List.append_nil _).symm, nofun⟩

theorem LeavesFirst.take {freq : Table Nat} (h : LeavesFirst freq nodes) : nodes.take freq.length = leavesOf freq := by
  obtain ⟨merged, rfl, -⟩ := h
  exact List.take_left' (leavesOf_length freq)

/-- Node `k` is a leaf exactly when the table of the counts has a `k`-th entry, and then it is that entry's leaf. -/
theorem LeavesFirst.leaf_iff {freq : Table Nat} (h : LeavesFirst freq nodes) {k w : Nat} {sym : Byte} :
    nodes[k]? = some (.leaf sym w) ↔ ∃ v, freq[k]? = some (v, w) ∧ BitVec.ofNat 8 v = sym := by
  obtain ⟨merged, rfl, hm⟩ := h
  rcases Nat.lt_or_ge k (leavesOf freq).length with hk | hk
  · rw [List.getElem?_append_left hk, leavesOf, List.getElem?_map]
    rcases freq[k]? with _ | ⟨v, c⟩ <;> simp [and_comm]
  · have hnone : freq[k]? = none := List.getElem?_eq_none (by rwa [leavesOf_length] at hk)
    rw [List.getElem?_append_right hk, hnone]
    refine ⟨fun hget => ?_, nofun⟩
    obtain ⟨w', l, r, he⟩ := hm _ (List.mem_of_getElem? hget)
    cases he

theorem LeavesFirst.leaf {freq : Table Nat} (h : LeavesFirst freq nodes) {k : Nat} (hk : k < freq.length) :
    ∃ sym w, nodes[k]? = some (.leaf sym w) :=
  ⟨_, _, h.leaf_iff.2 ⟨_, List.getElem?_eq_getElem hk, rfl⟩⟩

theorem LeavesFirst.internal {freq : Table Nat} (h : LeavesFirst freq nodes) {p : Nat} (hp : freq.length ≤ p)
    (hlt : p < nodes.length) : ∃ w l r, nodes[p]? = some (.internal w l r) := by
  have hget := List.getElem?_eq_getElem hlt
  cases hx : nodes[p] with
  | leaf sym w =>
    obtain ⟨v, hv, -⟩ := h.leaf_iff.1 (hget.trans (congrArg some hx))
    have := (List.getElem?_eq_some_iff.1 hv).1
    omega
  | internal w l r => exact ⟨w, l, r, hget.trans (congrArg some hx)⟩

/-! ### The tree -/

/-- The tree of a table of counts: its nodes and its root, the last of them (R202 to R205, R209). -/
structure TreeOf (freq : Table Nat) (ns : List HNode) (root : Nat) : Prop where
  length : ns.length = 2 * freq.length - 1
  root_last : root + 1 = ns.length
  leaves : LeavesFirst freq ns
  merges : AllMergeLightest ns
  owned : ∀ k, k < root → ∃ p, childOf ns k p ∧ ∀ q, childOf ns k q → q = p
  root_free : ∀ p, ¬ childOf ns root p
  rising : ∀ p q, freq.length ≤ p → p ≤ q → q < ns.length → weightAt ns p ≤ weightAt ns q

/-- A child is made before its parent (R204). -/
theorem AllMergeLightest.child_lt {ns : List HNode} (h : AllMergeLightest ns) {k p : Nat} (hc : childOf ns k p) :
    k < p := by
  obtain ⟨w, l, r, hget, rfl | rfl⟩ := hc
  · exact (h p w k r hget).left_live.1
  · exact (h p w l k hget).right_live.1

theorem buildTree_treeOf {freq : Table Nat} (hne : freq ≠ []) (h : ∀ c ∈ freq.map Prod.snd, 1 ≤ c) :
    TreeOf freq (buildTree freq).1 (buildTree freq).2 := by
  obtain ⟨root, hroot, hlen, hinv⟩ := buildTree_inv hne h
  have hmerges := buildTree_merges h
  have hlt := hinv.live_lt root (by simp)
  -- The last node is no child, since a child is made before its parent, and the root alone is none.
  have hlast : (buildTree freq).1.length - 1 = root.index := by
    by_contra hnot
    obtain ⟨p, hp, -⟩ := hinv.owned ((buildTree freq).1.length - 1) (by omega) (by simpa using hnot)
    have hup := hmerges.child_lt hp
    have hin := childOf_parent_lt hp
    omega
  rw [hroot]
  exact ⟨hlen, by omega, buildTree_leavesFirst freq, hmerges,
    fun k hk => hinv.owned k (hk.trans hlt) (by simp [hk.ne]), hinv.free root (by simp), hinv.rising⟩

theorem countSymbols_pos (syms : List Byte) : ∀ c ∈ (countSymbols syms).map Prod.snd, 1 ≤ c := by
  intro c hc
  obtain ⟨p, hp, rfl⟩ := List.mem_map.1 hc
  obtain ⟨-, hpos, -⟩ := mem_countSymbols.1 hp
  exact Nat.one_le_iff_ne_zero.2 hpos

/-- What `HUFF_TREE` leaves is the tree of the counts of the sequence. -/
theorem treeOf_countSymbols (h : s.symlen ≠ 0) :
    TreeOf (countSymbols s.symbols) (buildTree (countSymbols s.symbols)).1 (buildTree (countSymbols s.symbols)).2 :=
  buildTree_treeOf (countSymbols_ne_nil (State.symbols_ne_nil h)) (countSymbols_pos s.symbols)

/-- The registers hold the numbers of the tree without loss (R47). -/
theorem TreeOf.numbers_fit {syms : List Byte} {ns : List HNode} {root : Nat} (h : TreeOf (countSymbols syms) ns root) :
    (low32 root).toNat = root ∧ (low32 (countSymbols syms).length).toNat = (countSymbols syms).length ∧
      (low32 (2 * (countSymbols syms).length - 1)).toNat = 2 * (countSymbols syms).length - 1 := by
  have hle := countSymbols_length syms
  have hlen := h.length
  have hlast := h.root_last
  exact ⟨low32_toNat (by omega), low32_toNat (by omega), low32_toNat (by omega)⟩

/-- The tree in the state `HUFF_TREE` leaves. -/
theorem execHuffTree_treeOf (h : exec .huffTree s = .next t) (hok : t.status.err = .ok) :
    TreeOf (countSymbols s.symbols) t.node t.hroot.toNat ∧ t.hnsym.toNat = (countSymbols s.symbols).length := by
  obtain ⟨hne, -, hnode, hroot, hnsym⟩ := execHuffTree_ok h hok
  have htree := treeOf_countSymbols hne
  obtain ⟨hrootNat, hlenNat, -⟩ := htree.numbers_fit
  rw [hnode, hroot, hnsym, hrootNat, hlenNat]
  exact ⟨htree, rfl⟩

/-- The count of a symbol as FREQ holds it (R48). -/
theorem freqWord_count (hf : t.freq = countSymbols s.symbols) (b : Byte) :
    t.freqWord b.toNat = low32 (s.count b) := by
  unfold State.freqWord
  rw [hf, find_countSymbols s.symbols b.isLt, s.count_eq_countP]

/-- The leaves of the counts, by the distinct symbols (R202). -/
theorem leavesOf_countSymbols (s : State) :
    leavesOf (countSymbols s.symbols) =
      s.distinct.map fun v => .leaf (BitVec.ofNat 8 v) (s.count (BitVec.ofNat 8 v)) := by
  rw [countSymbols_symbols, leavesOf, List.map_map]; rfl

theorem distinct_length (s : State) : s.distinct.length = (countSymbols s.symbols).length := by
  rw [countSymbols_symbols, List.length_map]

end Sys2Proof.Machine

open Sys2Proof Sys2Proof.Machine

/-- Settles O36, from the tree of the counts. -/
theorem huffTreeCountsAndRoot : Obligations.HuffTreeCountsAndRoot := by
  refine ⟨by decide, fun s h => ?_⟩
  have he := exec_huffTree_of_symbols h
  have htree := treeOf_countSymbols h
  obtain ⟨hroot, hnsym, hnnode⟩ := htree.numbers_fit
  have hlast := htree.root_last
  have hlen := htree.length
  have hpos := List.length_pos_iff.2 (countSymbols_ne_nil (State.symbols_ne_nil h))
  refine ⟨_, s.distinct.length, he, ⟨rfl, rfl, rfl, rfl⟩, exec_huffTree_frame he, freqWord_count rfl, rfl, ?_⟩
  rw [distinct_length]
  exact ⟨hpos, countSymbols_length _, hnsym, hnnode, hroot.trans (by omega), hlen,
    htree.leaves.take.trans (leavesOf_countSymbols s), rfl, rfl, rfl, beq_iff_eq⟩

/-- Settles O37: the live set of the merging is the set of the nodes without a parent so far. -/
theorem eachMergeTakesTheTwoLightest : Obligations.EachMergeTakesTheTwoLightest := by
  intro s t h hok
  obtain ⟨htree, hnsym⟩ := execHuffTree_treeOf h hok
  have hlast := htree.root_last
  rw [hnsym]
  refine ⟨fun k hk => htree.leaves.leaf hk, fun p => htree.leaves.internal, fun p w l r hget => ?_, fun k => ?_⟩
  · obtain ⟨hl, hr, hne, hw, hlr, hleast⟩ := htree.merges p w l r hget
    exact ⟨hl, hr, hne, hw, hlr, hleast⟩
  · constructor
    · rintro ⟨hk, hfree⟩
      by_contra hne
      obtain ⟨p, hp, -⟩ := htree.owned k (by omega)
      exact hfree p (childOf_parent_lt hp) hp
    · rintro rfl
      exact ⟨by omega, fun q _ => htree.root_free q⟩

end

section
/-! The paths of the tree and its code table (R210, R215, R219): O43, O45, O46. -/

namespace Sys2Proof

/-- What stands at an index after a run of stores is stored by one of them or was there. -/
theorem Table.find_foldl_put {α β : Type} (key : β → Nat) (val : β → α) {es : List β} {t : Table α} {k : Nat} {v : α}
    (h : Table.find (es.foldl (fun t e => Table.put t (key e) (val e)) t) k = some v) :
    (∃ e ∈ es, key e = k ∧ val e = v) ∨ Table.find t k = some v := by
  induction es generalizing t with
  | nil => exact .inr h
  | cons e es ih =>
    obtain ⟨e', he', hk, hv⟩ | h := ih h
    · exact .inl ⟨e', List.mem_cons_of_mem e he', hk, hv⟩
    · by_cases hk : k = key e
      · subst hk
        rw [Table.find_put_same] at h
        exact .inl ⟨e, List.mem_cons_self, rfl, Option.some.inj h⟩
      · rw [Table.find_put_other _ _ hk] at h
        exact .inr h

/-- A run of stores leaves something at every index it stores to, and at every index that held something. -/
theorem Table.exists_find_foldl_put {α β : Type} (key : β → Nat) (val : β → α) {es : List β} {t : Table α} {k : Nat}
    (h : (∃ e ∈ es, key e = k) ∨ ∃ v, Table.find t k = some v) :
    ∃ v, Table.find (es.foldl (fun t e => Table.put t (key e) (val e)) t) k = some v := by
  induction es generalizing t with
  | nil => simpa using h
  | cons e es ih =>
    refine ih ?_
    by_cases hk : k = key e
    · exact .inr ⟨val e, by rw [hk, Table.find_put_same]⟩
    · obtain ⟨e', he', hke⟩ | ⟨v, hv⟩ := h
      · rcases List.mem_cons.1 he' with rfl | he'
        · exact absurd hke.symm hk
        · exact .inl ⟨e', he', hke⟩
      · exact .inr ⟨v, by rw [Table.find_put_other _ _ hk]; exact hv⟩

namespace Machine

variable {s t : State} {ns : List HNode} {freq : Table Nat} {root : Nat}

/-! ### Walks -/

/-- The child of node `k` that a path bit goes to: left on 0, right on 1 (R210). -/
def childAt (ns : List HNode) (k : Nat) (b : Bool) : Option Nat :=
  match ns[k]? with
  | some (.internal _ l r) => some (if b then r else l)
  | _ => none

/-- Where a path leads from node `k`, if it leads anywhere (R210). -/
def walk (ns : List HNode) (k : Nat) (path : List Bool) : Option Nat := path.foldlM (childAt ns) k

/-- A path leads from node `k` to a leaf of this symbol. -/
def LeadsTo (ns : List HNode) (k : Nat) (path : List Bool) (sym : Byte) : Prop :=
  ∃ j w, walk ns k path = some j ∧ ns[j]? = some (.leaf sym w)

theorem childAt_eq_some {k j : Nat} {b : Bool} :
    childAt ns k b = some j ↔ ∃ w l r, ns[k]? = some (.internal w l r) ∧ (if b then r else l) = j := by
  unfold childAt
  rcases ns[k]? with _ | ⟨⟨sym, w⟩ | ⟨w, l, r⟩⟩ <;> simp

theorem childOf_iff_childAt {k p : Nat} : childOf ns k p ↔ ∃ b, childAt ns p b = some k := by
  simp only [childAt_eq_some, Bool.exists_bool]
  constructor
  · rintro ⟨w, l, r, hget, rfl | rfl⟩
    · exact .inl ⟨w, k, r, hget, rfl⟩
    · exact .inr ⟨w, l, k, hget, rfl⟩
  · rintro (⟨w, l, r, hget, rfl⟩ | ⟨w, l, r, hget, rfl⟩)
    · exact ⟨w, _, r, hget, .inl rfl⟩
    · exact ⟨w, l, _, hget, .inr rfl⟩

@[simp] theorem walk_nil (k : Nat) : walk ns k [] = some k := rfl

theorem walk_cons_eq_some {k j : Nat} {b : Bool} {path : List Bool} :
    walk ns k (b :: path) = some j ↔ ∃ i, childAt ns k b = some i ∧ walk ns i path = some j := by
  simp [walk, Option.bind_eq_some_iff]

theorem walk_concat_eq_some {k j : Nat} {b : Bool} {path : List Bool} :
    walk ns k (path ++ [b]) = some j ↔ ∃ p, walk ns k path = some p ∧ childAt ns p b = some j := by
  simp [walk, Option.bind_eq_some_iff]

theorem leadsTo_cons {k : Nat} {b : Bool} {path : List Bool} {sym : Byte} :
    LeadsTo ns k (b :: path) sym ↔ ∃ i, childAt ns k b = some i ∧ LeadsTo ns i path sym := by
  unfold LeadsTo
  simp only [walk_cons_eq_some]
  constructor
  · rintro ⟨j, w, ⟨i, hi, hj⟩, hget⟩
    exact ⟨i, hi, j, w, hj, hget⟩
  · rintro ⟨i, hi, j, w, hj, hget⟩
    exact ⟨j, w, ⟨i, hi, hj⟩, hget⟩

theorem leadsTo_nil {k : Nat} {sym : Byte} : LeadsTo ns k [] sym ↔ ∃ w, ns[k]? = some (.leaf sym w) := by
  simp [LeadsTo]

/-- No walk goes on from a leaf. -/
theorem childAt_leaf {k w : Nat} {sym : Byte} (h : ns[k]? = some (.leaf sym w)) (b : Bool) : childAt ns k b = none := by
  unfold childAt; rw [h]

/-- No path to a leaf goes on to another: one leaf is no ancestor of another (R215). -/
theorem LeadsTo.eq_of_prefix {k : Nat} {p q : List Bool} {a b : Byte} (hp : LeadsTo ns k p a) (hq : LeadsTo ns k q b)
    (h : p <+: q) : a = b := by
  induction p generalizing k q with
  | nil =>
    obtain ⟨w, hget⟩ := leadsTo_nil.1 hp
    cases q with
    | nil =>
      obtain ⟨w', hget'⟩ := leadsTo_nil.1 hq
      rw [hget] at hget'; cases hget'; rfl
    | cons x q =>
      obtain ⟨i, hi, -⟩ := leadsTo_cons.1 hq
      rw [childAt_leaf hget] at hi; cases hi
  | cons x p ih =>
    cases q with
    | nil => exact absurd h (by simp)
    | cons y q =>
      obtain ⟨rfl, hpq⟩ := List.cons_prefix_cons.1 h
      obtain ⟨i, hi, hp⟩ := leadsTo_cons.1 hp
      obtain ⟨i', hi', hq⟩ := leadsTo_cons.1 hq
      rw [hi] at hi'; cases hi'
      exact ih hp hq hpq

/-! ### The walk of the table emitter -/

/-- The emitter lists the paths that lead to leaves and are shorter than its bound, behind the path it has come by. -/
theorem mem_leafPaths {depth k : Nat} {pre path : List Bool} {sym : Byte} :
    (sym, path) ∈ leafPaths ns depth k pre ↔ ∃ ext, path = pre ++ ext ∧ ext.length < depth ∧ LeadsTo ns k ext sym := by
  induction depth generalizing k pre with
  | zero => simp [leafPaths]
  | succ depth ih =>
    have hsplit : (∃ ext, path = pre ++ ext ∧ ext.length < depth + 1 ∧ LeadsTo ns k ext sym) ↔
        (path = pre ∧ LeadsTo ns k [] sym) ∨
          ∃ b ext, path = pre ++ [b] ++ ext ∧ ext.length < depth ∧ LeadsTo ns k (b :: ext) sym := by
      constructor
      · rintro ⟨_ | ⟨b, ext⟩, rfl, hlt, h⟩
        · exact .inl ⟨List.append_nil pre, h⟩
        · exact .inr ⟨b, ext, by simp, by simpa using hlt, h⟩
      · rintro (⟨rfl, h⟩ | ⟨b, ext, rfl, hlt, h⟩)
        · exact ⟨[], (List.append_nil _).symm, by simp, h⟩
        · exact ⟨b :: ext, by simp, by simpa using hlt, h⟩
    rw [hsplit]
    simp only [leadsTo_nil, leadsTo_cons, childAt, leafPaths]
    rcases ns[k]? with _ | ⟨⟨sym', w⟩ | ⟨w, l, r⟩⟩
    · simp
    · simp [and_comm, eq_comm]
    · simp only [List.mem_append, ih, Bool.exists_bool]
      simp

/-! ### The paths of the tree -/

theorem TreeOf.childAt_lt (h : TreeOf freq ns root) {p j : Nat} {b : Bool} (hc : childAt ns p b = some j) : j < p :=
  h.merges.child_lt (childOf_iff_childAt.2 ⟨b, hc⟩)

/-- A node is the child of one node (R49). -/
theorem TreeOf.parent_unique (h : TreeOf freq ns root) {k p q : Nat} (hp : childOf ns k p) (hq : childOf ns k q) :
    p = q := by
  have hk : k < root := by
    have hup := h.merges.child_lt hp
    have hin := childOf_parent_lt hp
    have hlast := h.root_last
    omega
  obtain ⟨o, -, huniq⟩ := h.owned k hk
  exact (huniq p hp).trans (huniq q hq).symm

/-- A node is the child of its parent by one bit (R210). -/
theorem TreeOf.childAt_inj (h : TreeOf freq ns root) {p q j : Nat} {b c : Bool} (hp : childAt ns p b = some j)
    (hq : childAt ns q c = some j) : p = q ∧ b = c := by
  obtain rfl := h.parent_unique (childOf_iff_childAt.2 ⟨b, hp⟩) (childOf_iff_childAt.2 ⟨c, hq⟩)
  refine ⟨rfl, ?_⟩
  obtain ⟨w, l, r, hget, hl⟩ := childAt_eq_some.1 hp
  obtain ⟨w', l', r', hget', hr⟩ := childAt_eq_some.1 hq
  rw [hget] at hget'; cases hget'
  have hne := (h.merges p w l r hget).ne
  cases b <;> cases c
  · rfl
  · exact absurd (hl.trans hr.symm) hne
  · exact absurd (hr.trans hl.symm) hne
  · rfl

/-- A node that is not the root and to which a path from the root leads is the child of the node the path comes by. -/
theorem walk_parent {j : Nat} {path : List Bool} (h : walk ns root path = some j) (hne : j ≠ root) :
    ∃ init p, walk ns root init = some p ∧ childOf ns j p ∧ path.length = init.length + 1 := by
  obtain rfl | ⟨init, b, rfl⟩ := List.eq_nil_or_concat path
  · cases h; exact absurd rfl hne
  · rw [List.concat_eq_append, walk_concat_eq_some] at h
    obtain ⟨p, hp, hb⟩ := h
    exact ⟨init, p, hp, childOf_iff_childAt.2 ⟨b, hb⟩, List.length_concat⟩

/-- One path leads from the root to a node (R210). -/
theorem TreeOf.walk_unique (h : TreeOf freq ns root) {p q : List Bool} {j : Nat} (hp : walk ns root p = some j)
    (hq : walk ns root q = some j) : p = q := by
  induction p using List.reverseRecOn generalizing q j with
  | nil =>
    cases hp
    obtain rfl | ⟨q, c, rfl⟩ := List.eq_nil_or_concat q
    · rfl
    · rw [List.concat_eq_append, walk_concat_eq_some] at hq
      obtain ⟨o, -, ho⟩ := hq
      exact absurd (childOf_iff_childAt.2 ⟨c, ho⟩) (h.root_free o)
  | append_singleton p b ih =>
    obtain ⟨o, ho, hb⟩ := walk_concat_eq_some.1 hp
    obtain rfl | ⟨q, c, rfl⟩ := List.eq_nil_or_concat q
    · cases hq
      exact absurd (childOf_iff_childAt.2 ⟨b, hb⟩) (h.root_free o)
    · rw [List.concat_eq_append] at hq ⊢
      obtain ⟨o', ho', hc⟩ := walk_concat_eq_some.1 hq
      obtain ⟨rfl, rfl⟩ := h.childAt_inj hb hc
      rw [ih ho ho']

/-- A path from the root goes down by one index or more with each bit (R204). -/
theorem TreeOf.walk_length (h : TreeOf freq ns root) {p : List Bool} {j : Nat} (hp : walk ns root p = some j) :
    j + p.length ≤ root := by
  induction p using List.reverseRecOn generalizing j with
  | nil => cases hp; exact le_rfl
  | append_singleton p b ih =>
    obtain ⟨o, ho, hb⟩ := walk_concat_eq_some.1 hp
    have hlt := h.childAt_lt hb
    have hle := ih ho
    rw [List.length_append, List.length_singleton]
    omega

/-- An internal node has no index of a leaf. -/
theorem TreeOf.internal_ge (h : TreeOf freq ns root) {k p : Nat} (hc : childOf ns k p) : freq.length ≤ p := by
  by_contra hlt
  obtain ⟨sym, w, hleaf⟩ := h.leaves.leaf (Nat.lt_of_not_le hlt)
  obtain ⟨b, hb⟩ := childOf_iff_childAt.1 hc
  rw [childAt_leaf hleaf] at hb
  cases hb

/-- A path from the root leads to every node (R215). -/
theorem TreeOf.exists_walk (h : TreeOf freq ns root) {j : Nat} (hj : j ≤ root) : ∃ p, walk ns root p = some j := by
  induction hd : root - j using Nat.strong_induction_on generalizing j with
  | _ d ih =>
    rcases hj.lt_or_eq with hlt | rfl
    · obtain ⟨o, ho, -⟩ := h.owned j hlt
      have hup := h.merges.child_lt ho
      have hin := childOf_parent_lt ho
      have hlast := h.root_last
      obtain ⟨p, hp⟩ := ih (root - o) (by omega) (by omega) rfl
      obtain ⟨b, hb⟩ := childOf_iff_childAt.1 ho
      exact ⟨p ++ [b], walk_concat_eq_some.2 ⟨o, hp, hb⟩⟩
    · exact ⟨[], rfl⟩

/-! ### The leaves of the counts -/

variable {b : Byte}

theorem TreeOf.leaf_lt (h : TreeOf freq ns root) {j w : Nat} (hj : ns[j]? = some (.leaf b w)) : j < freq.length := by
  obtain ⟨v, hv, -⟩ := h.leaves.leaf_iff.1 hj
  exact (List.getElem?_eq_some_iff.1 hv).1

/-- The table of the counts has an entry for each symbol that occurs (R201). -/
theorem mem_countSymbols_iff_count {c : Nat} :
    (b.toNat, c) ∈ countSymbols s.symbols ↔ 0 < s.count b ∧ c = s.count b := by
  rw [mem_countSymbols, ← s.count_eq_countP, and_iff_right b.isLt]
  constructor
  · rintro ⟨hne, rfl⟩
    exact ⟨Nat.pos_of_ne_zero hne, rfl⟩
  · rintro ⟨hpos, rfl⟩
    exact ⟨hpos.ne', rfl⟩

/-- With one entry in the table of the counts, its symbol alone occurs (R208). -/
theorem count_pos_iff_of_single {v c : Nat} (h : countSymbols s.symbols = [(v, c)]) : 0 < s.count b ↔ b.toNat = v := by
  constructor
  · intro hb
    have hm := mem_countSymbols_iff_count.2 ⟨hb, rfl⟩
    rw [h] at hm
    exact congrArg Prod.fst (List.mem_singleton.1 hm)
  · rintro rfl
    exact (mem_countSymbols_iff_count.1 (h ▸ List.mem_singleton.2 rfl)).1

/-- The leaf of a symbol weighs its count (R202). -/
theorem TreeOf.leaf_count (h : TreeOf (countSymbols s.symbols) ns root) {j w : Nat}
    (hj : ns[j]? = some (.leaf b w)) :
    w = s.count b ∧ 0 < s.count b ∧ (countSymbols s.symbols)[j]? = some (b.toNat, w) := by
  obtain ⟨v, hv, hb⟩ := h.leaves.leaf_iff.1 hj
  have hm := List.mem_of_getElem? hv
  have hvb : v = b.toNat := by
    rw [← hb, BitVec.toNat_ofNat]; exact (Nat.mod_eq_of_lt (mem_countSymbols.1 hm).1).symm
  subst hvb
  obtain ⟨hpos, hw⟩ := mem_countSymbols_iff_count.1 hm
  exact ⟨hw, hpos, hv⟩

/-- A symbol that occurs has a leaf (R202). -/
theorem TreeOf.exists_leaf (h : TreeOf (countSymbols s.symbols) ns root) (hb : 0 < s.count b) :
    ∃ j : Nat, ns[j]? = some (.leaf b (s.count b)) := by
  obtain ⟨j, hj⟩ := List.mem_iff_getElem?.1 (mem_countSymbols_iff_count.2 ⟨hb, rfl⟩)
  exact ⟨j, h.leaves.leaf_iff.2 ⟨_, hj, by simp⟩⟩

/-- A symbol has one leaf (R202). -/
theorem TreeOf.leaf_unique (h : TreeOf (countSymbols s.symbols) ns root) {j k w w' : Nat}
    (hj : ns[j]? = some (.leaf b w)) (hk : ns[k]? = some (.leaf b w')) : j = k := by
  obtain ⟨rfl, -, hj⟩ := h.leaf_count hj
  obtain ⟨rfl, -, hk⟩ := h.leaf_count hk
  have hnd : (countSymbols s.symbols).Nodup :=
    List.Nodup.of_map Prod.fst ((Table.wf_iff.1 (countSymbols_wf _)).imp fun hab => hab.ne)
  exact (List.getElem?_inj (List.getElem?_eq_some_iff.1 hj).1 hnd).1 (hj.trans hk.symm)

theorem TreeOf.leadsTo_unique (h : TreeOf (countSymbols s.symbols) ns root) {p q : List Bool}
    (hp : LeadsTo ns root p b) (hq : LeadsTo ns root q b) : p = q := by
  obtain ⟨j, w, hp, hj⟩ := hp
  obtain ⟨k, w', hq, hk⟩ := hq
  obtain rfl := h.leaf_unique hj hk
  exact h.walk_unique hp hq

/-- Every symbol that occurs has a path (R215 item 1). -/
theorem TreeOf.exists_leadsTo (h : TreeOf (countSymbols s.symbols) ns root) (hb : 0 < s.count b) :
    ∃ p, LeadsTo ns root p b := by
  obtain ⟨j, hj⟩ := h.exists_leaf hb
  have hlt := (List.getElem?_eq_some_iff.1 hj).1
  have hlast := h.root_last
  obtain ⟨p, hp⟩ := h.exists_walk (show j ≤ root by omega)
  exact ⟨p, j, _, hp, hj⟩

/-- The code table lists the paths to the leaves, each at its symbol (R210). -/
theorem TreeOf.find_codeTable (h : TreeOf (countSymbols s.symbols) ns root) {v : Nat} {path : List Bool} :
    Table.find (codeTable ns root) v = some path ↔ ∃ b : Byte, b.toNat = v ∧ LeadsTo ns root path b := by
  have hmem : ∀ (b : Byte) p, (b, p) ∈ leafPaths ns ns.length root [] → LeadsTo ns root p b := by
    intro b p hm
    obtain ⟨ext, rfl, -, hl⟩ := mem_leafPaths.1 hm
    exact hl
  have hfrom : ∀ p, Table.find (codeTable ns root) v = some p → ∃ b : Byte, b.toNat = v ∧ LeadsTo ns root p b := by
    intro p hp
    obtain ⟨⟨b, q⟩, he, hv, rfl⟩ | hp := Table.find_foldl_put (fun e : Byte × List Bool => e.1.toNat) Prod.snd hp
    · exact ⟨b, hv, hmem b q he⟩
    · cases hp
  refine ⟨hfrom path, ?_⟩
  rintro ⟨b, rfl, hpath⟩
  have hlen : path.length < ns.length := by
    obtain ⟨j, w, hw, -⟩ := hpath
    have hle := h.walk_length hw
    have hlast := h.root_last
    omega
  obtain ⟨p, hp⟩ := Table.exists_find_foldl_put (fun e : Byte × List Bool => e.1.toNat) Prod.snd (t := [])
    (.inl ⟨(b, path), mem_leafPaths.2 ⟨path, (List.nil_append path).symm, hlen, hpath⟩, rfl⟩)
  obtain ⟨c, hc, hcp⟩ := hfrom p hp
  obtain rfl := BitVec.eq_of_toNat_eq hc
  rw [h.leadsTo_unique hpath hcp]
  exact hp

/-! ### The table of `HUFF_ALL` -/

/-- What `HUFF_ALL` leaves when it ends without error: the tree of the counts, and the code `0` for a single symbol or
the table of the tree (R214, R216). -/
theorem execHuffAll_ok (h : exec .huffAll s = .next t) (hok : t.status.err = .ok) :
    TreeOf (countSymbols s.symbols) t.node t.hroot.toNat ∧ t.hnsym.toNat = (countSymbols s.symbols).length ∧
      ((∃ v c, countSymbols s.symbols = [(v, c)] ∧ t.code = [(v, [false])]) ∨
        (2 ≤ (countSymbols s.symbols).length ∧ t.code = codeTable t.node t.hroot.toNat)) := by
  have hne : s.symlen ≠ 0 := by
    intro he
    rw [exec_huffAll_of_empty he] at h
    cases h; cases hok
  have htree := execHuffTree_treeOf (exec_huffTree_of_symbols hne) rfl
  rw [exec_huffAll_of_symbols hne] at h
  obtain ⟨-, hsame⟩ := exec_huffTable_frame h
  rw [hsame.node, hsame.hroot, hsame.hnsym]
  refine ⟨htree.1, htree.2, ?_⟩
  obtain ⟨-, -, he⟩ | ⟨hd, hr, -⟩ | ⟨hd, he⟩ :=
    exec_huffTable_cases (s := s.withTree (countSymbols s.symbols)) rfl
  · rw [he] at h; cases h; cases hok
  · obtain ⟨⟨v, c⟩, hone⟩ := List.length_eq_one_iff.1 (beq_iff_eq.1 hd)
    have hv : (BitVec.ofNat 8 v).toNat = v := by
      have hlt := (mem_countSymbols.1 (hone ▸ List.mem_singleton.2 rfl : (v, c) ∈ countSymbols s.symbols)).1
      simpa using hlt
    have hleaf := exec_huffTable_of_leaf (s := s.withTree (countSymbols s.symbols)) rfl hd hr
      (congrArg (fun f => (buildTree f).1) hone) (congrArg (fun f => low32 (buildTree f).2) hone)
    rw [h, hv] at hleaf
    cases hleaf
    exact .inl ⟨v, c, hone, rfl⟩
  · rw [he] at h
    cases h
    have hpos := List.length_pos_iff.2 (countSymbols_ne_nil (State.symbols_ne_nil hne))
    have hone : (countSymbols s.symbols).length ≠ 1 := beq_eq_false_iff_ne.1 hd
    exact .inr ⟨by omega, rfl⟩

/-- With two symbols or more the code of a symbol that occurs is the path to its leaf. -/
theorem TreeOf.leadsTo_codeOf (h : TreeOf (countSymbols s.symbols) t.node root) (hcode : t.code = codeTable t.node root)
    (hb : 0 < s.count b) : LeadsTo t.node root (t.codeOf b) b := by
  obtain ⟨p, hp⟩ := h.exists_leadsTo hb
  have hfind := h.find_codeTable.2 ⟨b, rfl, hp⟩
  unfold State.codeOf
  rw [hcode, hfind]
  exact hp

/-- With two symbols or more the code of a symbol is at least one and at most `n - 1` steps: they pass `n - 1` internal
nodes at most (R219). -/
theorem TreeOf.leadsTo_length (h : TreeOf freq ns root) (hn : 2 ≤ freq.length) {p : List Bool}
    (hp : LeadsTo ns root p b) : 1 ≤ p.length ∧ p.length ≤ freq.length - 1 := by
  obtain ⟨j, w, hw, hj⟩ := hp
  have hlen := h.length
  have hlast := h.root_last
  have hjn := h.leaf_lt hj
  obtain ⟨init, o, ho, hc, hsucc⟩ := walk_parent hw (by omega)
  have hle := h.walk_length ho
  have hinternal := h.internal_ge hc
  omega

/-! ### Decoding by the tree -/

/-- Decoding the path to a leaf emits its symbol and goes on from the root (R215 item 4). -/
theorem treeDecode_leadsTo {k : Nat} {p : List Bool} (hp : LeadsTo ns k p b) (hne : p ≠ []) (bits : List Bool) :
    treeDecode ns root k (p ++ bits) =
      (b :: (treeDecode ns root root bits).1, (treeDecode ns root root bits).2) := by
  induction p generalizing k with
  | nil => exact absurd rfl hne
  | cons x p ih =>
    obtain ⟨i, hi, hp⟩ := leadsTo_cons.1 hp
    obtain ⟨w, l, r, hget, hnext⟩ := childAt_eq_some.1 hi
    cases p with
    | nil =>
      obtain ⟨w', hleaf⟩ := leadsTo_nil.1 hp
      simp [treeDecode, hget, hnext, hleaf]
    | cons y p =>
      obtain ⟨i', hi', -⟩ := leadsTo_cons.1 hp
      obtain ⟨w', l', r', hget', -⟩ := childAt_eq_some.1 hi'
      rw [← ih hp (by simp)]
      simp [treeDecode, hget, hnext, hget']

/-- Decoding the paths of a sequence of symbols gives the sequence. -/
theorem treeDecode_flatMap {code : Byte → List Bool} {syms : List Byte}
    (h : ∀ x ∈ syms, LeadsTo ns root (code x) x ∧ code x ≠ []) :
    treeDecode ns root root (syms.flatMap code) = (syms, true) := by
  induction syms with
  | nil => simp [treeDecode]
  | cons x syms ih =>
    obtain ⟨hx, hne⟩ := h x List.mem_cons_self
    rw [List.flatMap_cons, treeDecode_leadsTo hx hne, ih fun y hy => h y (List.mem_cons_of_mem x hy)]

/-- A symbol of the sequence has a count. -/
theorem State.count_pos (s : State) {x : Byte} (hx : x ∈ s.symbols) : 0 < s.count x :=
  List.countP_pos_iff.2 ⟨x, hx, by simp⟩

end Machine
end Sys2Proof

open Sys2Proof Sys2Proof.Machine

/-- Settles O43: the entries are the paths to the leaves, and no leaf is an ancestor of another. -/
theorem codesArePrefixFree : Obligations.CodesArePrefixFree := by
  intro s t h hok
  obtain ⟨htree, -, ⟨v, c, hone, hcode⟩ | ⟨hn, hcode⟩⟩ := execHuffAll_ok h hok
  · have hv : v < 256 := (mem_countSymbols.1 (hone ▸ List.mem_singleton.2 rfl : (v, c) ∈ countSymbols s.symbols)).1
    rw [hcode]
    refine ⟨fun b => ?_, fun k hk => Table.find_eq_none ?_, fun b c hb hc hne => ?_⟩
    · rw [count_pos_iff_of_single hone]
      simp [Table.find, eq_comm]
    · simp only [List.mem_singleton, forall_eq]; omega
    · rw [count_pos_iff_of_single hone] at hb hc
      exact absurd (BitVec.eq_of_toNat_eq (hb.trans hc.symm)) hne
  · refine ⟨fun b => ?_, fun k hk => ?_, fun b c hb hc hne hpre => ?_⟩
    · rw [hcode]
      constructor
      · rintro ⟨path, hpath⟩
        obtain ⟨b', hb', j, w, -, hj⟩ := htree.find_codeTable.1 hpath
        obtain rfl := BitVec.eq_of_toNat_eq hb'
        exact (htree.leaf_count hj).2.1
      · intro hb
        obtain ⟨p, hp⟩ := htree.exists_leadsTo hb
        exact ⟨p, htree.find_codeTable.2 ⟨b, rfl, hp⟩⟩
    · rw [hcode, Option.eq_none_iff_forall_ne_some]
      intro path hpath
      obtain ⟨b, rfl, -⟩ := htree.find_codeTable.1 hpath
      exact absurd b.isLt (by omega)
    · exact hne ((htree.leadsTo_codeOf hcode hb).eq_of_prefix (htree.leadsTo_codeOf hcode hc) hpre)

/-- Settles O45: a path goes from the root, which is no leaf, through distinct internal nodes to a leaf. -/
theorem codeLengthBounds : Obligations.CodeLengthBounds := by
  intro s t h hok hn b hb
  obtain ⟨htree, hnsym, ⟨v, c, hone, -⟩ | ⟨-, hcode⟩⟩ := execHuffAll_ok h hok <;> rw [hnsym] at hn ⊢
  · rw [hone] at hn; exact absurd hn (by simp)
  · obtain ⟨hpos, hle⟩ := htree.leadsTo_length hn (htree.leadsTo_codeOf hcode hb)
    have hmax := countSymbols_length s.symbols
    exact ⟨hpos, hle, by omega⟩

/-- Settles O46: each code leads from the root to its symbol's leaf. -/
theorem treeDecodesTheEncoding : Obligations.TreeDecodesTheEncoding := by
  intro s t h hok hn
  obtain ⟨htree, hnsym, ⟨v, c, hone, -⟩ | ⟨-, hcode⟩⟩ := execHuffAll_ok h hok <;> rw [hnsym] at hn
  · rw [hone] at hn; exact absurd hn (by simp)
  · refine treeDecode_flatMap fun x hx => ?_
    have hlead := htree.leadsTo_codeOf hcode (s.count_pos hx)
    exact ⟨hlead, List.length_pos_iff.1 (htree.leadsTo_length hn hlead).1⟩

end

section
/-! Lighter nodes are merged no later, and so lie no higher in the tree (R203, R204, R215 item 3): O44. -/

namespace Sys2Proof.Machine

variable {s t : State} {ns : List HNode} {freq : Table Nat} {root : Nat}

theorem nodeLighter_trans {x y z : Nat} (h : nodeLighter ns x y) (h' : nodeLighter ns y z) : nodeLighter ns x z := by
  unfold nodeLighter at *; omega

theorem nodeLighter_asymm {x y : Nat} (h : nodeLighter ns x y) : ¬ nodeLighter ns y x := by
  unfold nodeLighter at *; omega

/-- What a merge takes is lighter than every other node live then. -/
theorem AllMergeLightest.child_lighter (h : AllMergeLightest ns) {p x k : Nat} (hx : childOf ns x p)
    (hk : liveAt ns p k) (hnot : ¬ childOf ns k p) : nodeLighter ns x k := by
  obtain ⟨w, l, r, hget, hlr⟩ := hx
  have hm := h p w l r hget
  have hrk := hm.least k hk (fun e => hnot ⟨w, l, r, hget, .inl e⟩) fun e => hnot ⟨w, l, r, hget, .inr e⟩
  obtain rfl | rfl := hlr
  · exact nodeLighter_trans hm.lighter hrk
  · exact hrk

/-- The lighter of two nodes is merged no later than the other, if it is there by then: otherwise it would still be
live at the other's merge, which takes the lightest. -/
theorem TreeOf.parent_le_of_lighter (h : TreeOf freq ns root) {x y p q : Nat} (hx : childOf ns x p)
    (hy : childOf ns y q) (hl : nodeLighter ns y x) (hyp : y < p) : q ≤ p := by
  by_contra hlt
  have hlive : liveAt ns p y := ⟨hyp, fun o ho hc => by have := h.parent_unique hy hc; omega⟩
  have hnot : ¬ childOf ns y p := fun hc => by have := h.parent_unique hy hc; omega
  exact nodeLighter_asymm hl (h.merges.child_lighter hx hlive hnot)

/-- Of two internal nodes the earlier is the lighter, and its parent is no later than the other's. -/
theorem TreeOf.parent_le_of_le (h : TreeOf freq ns root) {x y p q : Nat} (hx : childOf ns x p) (hy : childOf ns y q)
    (hn : freq.length ≤ y) (hyx : y ≤ x) : q ≤ p := by
  rcases hyx.lt_or_eq with hlt | rfl
  · have hup := h.merges.child_lt hx
    have hin := childOf_parent_lt hx
    have hw := h.rising y x hn hyx (by omega)
    refine h.parent_le_of_lighter hx hy ?_ (hlt.trans hup)
    unfold nodeLighter
    omega
  · exact (h.parent_unique hy hx).le

/-- Of two internal nodes the later one lies no deeper. -/
theorem TreeOf.depth_le_of_le (h : TreeOf freq ns root) {pathx pathy : List Bool} {x y : Nat}
    (hx : walk ns root pathx = some x) (hy : walk ns root pathy = some y) (hn : freq.length ≤ y) (hyx : y ≤ x) :
    pathx.length ≤ pathy.length := by
  induction hd : pathx.length generalizing pathx pathy x y with
  | zero => exact Nat.zero_le _
  | succ d ih =>
    have hxlen := h.walk_length hx
    obtain ⟨initx, p, hp, hcx, hlx⟩ := walk_parent hx (by omega)
    obtain ⟨inity, q, hq, hcy, hly⟩ := walk_parent hy (by omega)
    have hup := h.merges.child_lt hcy
    have hle := ih hp hq (by omega) (h.parent_le_of_le hcx hcy hn hyx) (by omega)
    omega

/-- Of two leaves the heavier lies no deeper. -/
theorem TreeOf.depth_le_of_heavier (h : TreeOf freq ns root) {pathx pathy : List Bool} {x y : Nat}
    (hx : walk ns root pathx = some x) (hy : walk ns root pathy = some y) (hyn : y < freq.length)
    (hw : weightAt ns y < weightAt ns x) : pathx.length ≤ pathy.length := by
  by_cases hxr : x = root
  · subst hxr
    rw [h.walk_unique hx (walk_nil x)]
    exact Nat.zero_le _
  obtain ⟨initx, p, hp, hcx, hlx⟩ := walk_parent hx hxr
  have hpn := h.internal_ge hcx
  have hproot := h.walk_length hp
  obtain ⟨inity, q, hq, hcy, hly⟩ := walk_parent hy (by omega)
  have hle := h.depth_le_of_le hp hq (h.internal_ge hcy)
    (h.parent_le_of_lighter hcx hcy (.inl hw) (hyn.trans_le hpn))
  omega

theorem weightAt_leaf {j w : Nat} {sym : Byte} (h : ns[j]? = some (.leaf sym w)) : weightAt ns j = w := by
  unfold weightAt; rw [h]; rfl

end Sys2Proof.Machine

open Sys2Proof Sys2Proof.Machine

/-- Settles O44: the leaf of the more frequent symbol is the heavier one, and lies no deeper. -/
theorem moreFrequentNoLongerCode : Obligations.MoreFrequentNoLongerCode := by
  intro s t h hok b c hc hcb
  have hb : 0 < s.count b := hc.trans hcb
  obtain ⟨htree, -, ⟨v, n, hone, -⟩ | ⟨-, hcode⟩⟩ := execHuffAll_ok h hok
  · obtain rfl : b = c := BitVec.eq_of_toNat_eq
      (((count_pos_iff_of_single hone).1 hb).trans ((count_pos_iff_of_single hone).1 hc).symm)
    exact le_rfl
  · obtain ⟨j, w, hj, hjleaf⟩ := htree.leadsTo_codeOf hcode hb
    obtain ⟨k, w', hk, hkleaf⟩ := htree.leadsTo_codeOf hcode hc
    obtain ⟨hw, -⟩ := htree.leaf_count hjleaf
    obtain ⟨hw', -⟩ := htree.leaf_count hkleaf
    refine htree.depth_le_of_heavier hj hk (htree.leaf_lt hkleaf) ?_
    rw [weightAt_leaf hjleaf, weightAt_leaf hkleaf, hw, hw']
    exact hcb

end

section
/-! The two system commands (R240, R241): O10, O11. -/

namespace Sys2Proof.Machine

variable {s t : State}

theorem exec_nop (s : State) : exec .nop s = .next s.finish := rfl

theorem exec_clrErr (s : State) :
    exec .clrErr s = .next { s with status := ⟨.ok, .none, false⟩, errinfo := 0 } := rfl

/-- After a successful end only the `STICKY` bit of `STATUS` can be set (R25, R253). -/
theorem EndsOk.statusWord (h : EndsOk s t) : t.statusWord = bitAt 8 s.status.sticky := by
  unfold State.statusWord
  rw [h.err, h.stage, h.sticky]
  exact BitVec.zero_or

end Sys2Proof.Machine

open Sys2Proof Sys2Proof.Machine

/-- Settles O10: `NOP` is the successful end alone, which writes only the outcome. -/
theorem nopOnlyClearsTheOutcome : Obligations.NopOnlyClearsTheOutcome :=
  ⟨decodeWord_encode .nop, fun s =>
    ⟨s.finish, exec_nop s, s.finish_ends, systemFrame_update s _ _, s.finish_ends.statusWord⟩⟩

/-- Settles O11: `CLRERR` writes only the outcome, and every other command keeps a set `STICKY` (`exec_sticky`). -/
theorem clrErrClearsStatus : Obligations.ClrErrClearsStatus :=
  ⟨decodeWord_encode .clrErr, fun s =>
    ⟨_, exec_clrErr s, statusWord_of_cleared rfl, rfl, rfl, systemFrame_update s _ _⟩,
    fun _ _ _ => exec_sticky⟩

end

section
/-! How commands and illegal words end (R250 to R259): O5, O6, O7. -/

namespace Sys2Proof.Machine

variable {s t u : State} {i : Instr} {g : Stage} {p : Word} {e : ErrCode} {info : Word}

/-! ### An illegal word -/

theorem runCommand_illegal {w : Word} {why : Reject} (h : decodeWord w = .illegal why) (s : State) :
    runCommand w s = .next (s.illegalCommand w) := by
  unfold runCommand; rw [h]

/-- `ERR` 8, `STAGE` 0, `STICKY` 1 (R25, R255). -/
theorem EndsRaised.statusWord_illegal (h : EndsRaised .illegalCommand .none info t) : t.statusWord = 0x108 := by
  unfold State.statusWord
  rw [h.err, h.stage, h.sticky]
  decide

/-! ### Every command ends -/

/-- No unit writes `STATUS` before the end of a command (R253, R254). -/
theorem Touches.status_eq (h : Touches i s u) : u.status = s.status := by
  cases i with
  | nop | clrErr => exact congrArg State.status h
  | crcInit | crcByte | crcBuf | crc32 => obtain ⟨_, rfl⟩ := h; rfl
  | adlerInit | adlerByte | adlerBuf | adler32 | huffTable => obtain ⟨_, _, rfl⟩ := h; rfl
  | parseSig | parseIhdr | parseIdat | parseIend | decode => obtain ⟨_, _, _, _, _, _, _, rfl⟩ := h; rfl
  | huffTree | huffAll => obtain ⟨_, _, _, _, _, _, _, _, _, rfl⟩ := h; rfl

/-! ### The errors of the four reads are those of the rows (R252) -/

theorem readSig_err_raisable (h : s.readSig = .err e info) : e ∈ raisable s .parseSig := by
  obtain ⟨-, rfl, -⟩ := State.readSig_err h
  exact List.mem_singleton_self _

theorem readIhdr_err_raisable {o : Nat} (h : s.readIhdr o = .err e info) : e ∈ raisable s .parseIhdr :=
  State.readIhdr_err h

theorem readIdat_err_raisable {o : Nat} (h : s.readIdat o = .err e info) : e ∈ raisable s .parseIdat := by
  obtain rfl | rfl | ⟨hs, rfl⟩ := State.readIdat_err h
  · simp [raisable]
  · simp [raisable]
  · simp [raisable, hs]

theorem readIend_err_raisable {o : Nat} (h : s.readIend o = .err e info) : e ∈ raisable s .parseIend := by
  obtain rfl | rfl | rfl | ⟨hs, rfl⟩ := State.readIend_err h
  · simp [raisable]
  · simp [raisable]
  · simp [raisable]
  · simp [raisable, hs]

/-! ### `DECODE` -/

/-- The first failing stage is that of a parse command, with an error of its row (R176, R252). -/
theorem FirstFailure.stage_raisable (h : FirstFailure s g p e info) :
    ∃ j ∈ [Instr.parseSig, .parseIhdr, .parseIdat, .parseIend], g = stageOf j ∧ e ∈ raisable s j := by
  cases h with
  | signature hsig => exact ⟨.parseSig, by decide, rfl, readSig_err_raisable hsig⟩
  | ihdr _ hihdr => exact ⟨.parseIhdr, by decide, rfl, readIhdr_err_raisable hihdr⟩
  | idat _ _ hidat => exact ⟨.parseIdat, by decide, rfl, readIdat_err_raisable hidat⟩
  | iend _ _ _ hiend => exact ⟨.parseIend, by decide, rfl, readIend_err_raisable hiend⟩

/-- The row of `DECODE` is the errors that have a stage (R252). -/
theorem FirstFailure.raisable_decode (h : FirstFailure s g p e info) : e ∈ raisable s .decode := by
  change e ∈ stagedErrors
  cases h with
  | signature hsig => obtain ⟨-, rfl, -⟩ := State.readSig_err hsig; decide
  | ihdr _ hihdr => exact readIhdr_err_staged hihdr
  | idat _ _ hidat => exact readIdat_err_staged hidat
  | iend _ _ _ hiend => exact readIend_err_staged hiend

theorem exec_decode_error (h : exec .decode s = .next t) (hne : t.status.err ≠ .ok) :
    ∃ p info, FirstFailure s t.status.stage p t.status.err info := by
  obtain ⟨b, r, d, e, hreads⟩ | ⟨g, p, e, info, hfail⟩ := streamReads_or_firstFailure s
  · cases h.symm.trans (exec_decode_of_reads hreads)
    exact absurd rfl hne
  · cases h.symm.trans (exec_decode_of_failure hfail)
    exact ⟨p, info, hfail⟩

/-! ### The other commands -/

/-- The command ended without an error, or with one of its row at its own stage (R25, R252). -/
def OkOrOwnError (i : Instr) (s t : State) : Prop :=
  t.status.err = .ok ∨ t.status.err ∈ raisable s i ∧ t.status.stage = stageOf i

theorem EndsRaised.ownError (h : EndsRaised e (stageOf i) info t) (he : e ∈ raisable s i) : OkOrOwnError i s t :=
  .inr ⟨h.err.symm ▸ he, h.stage⟩

/-- A range command with `OutOfBounds` in its row raises nothing else. -/
theorem rangeCommand_ownError {f : List Byte → State} (hexec : exec i s = s.overRange f)
    (he : ErrCode.outOfBounds ∈ raisable s i) (hg : stageOf i = .none) (h : exec i s = .next t) :
    OkOrOwnError i s t := by
  rw [hexec] at h
  obtain ⟨-, hf⟩ | ⟨-, hf⟩ := s.overRange_cases f <;> cases h.symm.trans hf
  · exact .inl rfl
  · exact .inr ⟨he, hg.symm⟩

theorem exec_huffTree_ownError (h : exec .huffTree s = .next t) : OkOrOwnError .huffTree s t := by
  by_cases hsym : s.symlen = 0
  · cases h.symm.trans (exec_huffTree_of_empty hsym)
    exact .inr ⟨List.mem_singleton_self _, rfl⟩
  · cases h.symm.trans (exec_huffTree_of_symbols hsym)
    exact .inl rfl

/-- With a tree the one error left is `DegenerateTree`, under `DEGEN_ERR` (R214). -/
theorem exec_huffTable_error_of_tree (hv : s.treeV = true) (h : exec .huffTable s = .next t) :
    t.status.err = .ok ∨ s.degenErr = true ∧ t.status.err = .degenerateTree ∧ t.status.stage = .none := by
  obtain ⟨-, hr, he⟩ | ⟨-, -, he⟩ | ⟨-, he⟩ := exec_huffTable_cases hv <;> cases h.symm.trans he
  · exact .inr ⟨hr, rfl, rfl⟩
  · exact .inl rfl
  · exact .inl rfl

theorem exec_huffTable_ownError (h : exec .huffTable s = .next t) : OkOrOwnError .huffTable s t := by
  cases hv : s.treeV with
  | false =>
    cases h.symm.trans (exec_huffTable_of_noTree hv)
    exact .inr ⟨List.mem_cons_self, rfl⟩
  | true =>
    refine (exec_huffTable_error_of_tree hv h).imp_right ?_
    rintro ⟨hr, he, hg⟩
    exact ⟨by simp [raisable, hr, he], hg⟩

theorem exec_huffAll_ownError (h : exec .huffAll s = .next t) : OkOrOwnError .huffAll s t := by
  by_cases hsym : s.symlen = 0
  · cases h.symm.trans (exec_huffAll_of_empty hsym)
    exact .inr ⟨List.mem_cons_self, rfl⟩
  · rw [exec_huffAll_of_symbols hsym] at h
    refine (exec_huffTable_error_of_tree rfl h).imp_right ?_
    rintro ⟨hr : s.degenErr = true, he, hg⟩
    exact ⟨by simp [raisable, hr, he], hg⟩

/-- Every command but `DECODE` raises only errors of its row, at its own stage. -/
theorem exec_ownError (hi : i ≠ .decode) (h : exec i s = .next t) : OkOrOwnError i s t := by
  cases i with
  | nop | clrErr | crcInit | crcByte | adlerInit | adlerByte => cases h; exact .inl rfl
  | crcBuf => exact rangeCommand_ownError (exec_crcBuf s) (List.mem_singleton_self _) rfl h
  | crc32 => exact rangeCommand_ownError (exec_crc32 s) (List.mem_singleton_self _) rfl h
  | adlerBuf => exact rangeCommand_ownError (exec_adlerBuf s) (List.mem_singleton_self _) rfl h
  | adler32 => exact rangeCommand_ownError (exec_adler32 s) (List.mem_singleton_self _) rfl h
  | parseSig =>
    obtain ⟨b, -, hends, -⟩ | ⟨e, info, hread, hraised⟩ := exec_parseSig_cases h
    · exact .inl hends.ok.err
    · exact hraised.ownError (readSig_err_raisable hread)
  | parseIhdr =>
    obtain ⟨r, -, hends, -⟩ | ⟨e, info, hread, hraised⟩ := exec_parseIhdr_cases (.refl s) rfl h
    · exact .inl hends.ok.err
    · exact hraised.ownError (readIhdr_err_raisable hread)
  | parseIdat =>
    obtain ⟨d, -, hends, -⟩ | ⟨e, info, hread, hraised⟩ := exec_parseIdat_cases (.refl s) rfl rfl h
    · exact .inl hends.ok.err
    · exact hraised.ownError (readIdat_err_raisable hread)
  | parseIend =>
    obtain ⟨e, -, hends, -⟩ | ⟨e, info, hread, hraised⟩ := exec_parseIend_cases (.refl s) rfl rfl h
    · exact .inl hends.ok.err
    · exact hraised.ownError (readIend_err_raisable hread)
  | decode => exact absurd rfl hi
  | huffTree => exact exec_huffTree_ownError h
  | huffTable => exact exec_huffTable_ownError h
  | huffAll => exact exec_huffAll_ownError h

end Sys2Proof.Machine

open Sys2Proof Sys2Proof.Machine

/-- Settles O5: an illegal word does not decode, and its entry writes `STATUS` and `ERRINFO` only. -/
theorem illegalWordRaises : Obligations.IllegalWordRaises := by
  intro s w h
  obtain ⟨why, hw⟩ := (legalWordSelectsOneCommand w).2 h
  have hends : EndsRaised .illegalCommand .none w (s.illegalCommand w) := s.raise_ends _ _ _
  exact ⟨s.illegalCommand w, runCommand_illegal hw s, hends, hends.statusWord_illegal, illegalCommand_frame s w⟩

/-- Settles O6, by the two ends of a command (`exec_cases`): its unit leaves `STATUS` for the end to write. -/
theorem everyCommandEnds : Obligations.EveryCommandEnds := by
  intro i s
  obtain ⟨t, h⟩ := exec_next i s
  refine ⟨t, h, ?_⟩
  obtain ⟨rfl, rfl⟩ | ⟨hi, u, hu, rfl | ⟨e, g, info, he, rfl⟩⟩ := exec_cases h
  · exact .inl ⟨rfl, rfl, rfl, rfl⟩
  · rw [if_neg hi, ← hu.status_eq]
    exact .inl ⟨rfl, rfl, rfl, rfl⟩
  · exact .inr ⟨he, rfl⟩

/-- Settles O7: `DECODE` by its first failing stage, every other command by its own row and stage (`exec_ownError`). -/
theorem commandRaisesOnlyItsErrors : Obligations.CommandRaisesOnlyItsErrors := by
  intro i s t h hne
  by_cases hi : i = .decode
  · subst hi
    obtain ⟨p, info, hfail⟩ := exec_decode_error h hne
    exact ⟨hfail.raisable_decode, fun hd => absurd rfl hd, fun _ => hfail.stage_raisable⟩
  · obtain ⟨herr, hstage⟩ := (exec_ownError hi h).resolve_left hne
    exact ⟨herr, fun _ => hstage, fun hd => absurd hd hi⟩

end

section
/-! The writes of the two memories and of their lengths (R286), and the first command after reset (R281): O53, O55. -/

namespace Sys2Proof.Machine

variable {s : State}

/-! ### Writes of BUF, `BUFLEN` and SYM -/

theorem State.putBuf_recordsCleared (s : State) (i : Nat) (b : Byte) : RecordsCleared (s.putBuf i b) :=
  .of_none rfl rfl rfl rfl rfl

theorem regStore_buflen_recordsCleared (s : State) (v : Word) : RecordsCleared (s.regStore .buflen v) :=
  .of_none rfl rfl rfl rfl rfl

/-- A write of BUF leaves what only commands write (R286). -/
theorem State.putBuf_hostFrame (s : State) (i : Nat) (b : Byte) : HostFrame s (s.putBuf i b) :=
  ⟨rfl, rfl, rfl, ⟨rfl, rfl⟩, rfl, ⟨rfl, rfl, rfl, rfl, rfl, rfl, rfl⟩, ⟨rfl, rfl⟩, rfl, rfl⟩

/-- A write of SYM leaves what only commands write (R286). -/
theorem State.putSym_hostFrame (s : State) (i : Nat) (b : Byte) : HostFrame s (s.putSym i b) :=
  ⟨rfl, rfl, rfl, ⟨rfl, rfl⟩, rfl, ⟨rfl, rfl, rfl, rfl, rfl, rfl, rfl⟩, ⟨rfl, rfl⟩, rfl, rfl⟩

/-! ### Commands on an empty range and an empty buffer -/

/-- A range of no bytes that starts inside the buffer or at its end: the command runs on the empty sequence (R76). -/
theorem exec_of_emptyRange {i : Instr} {f : List Byte → State} (hexec : exec i s = s.overRange f) (hlen : s.arg1 = 0)
    (hstart : s.arg0.toNat ≤ s.buflen.toNat) : exec i s = .next (f []).finish := by
  have hfits : s.fits s.arg0.toNat s.arg1.toNat := by rw [hlen]; exact hstart
  rw [hexec, overRange_of_fits hfits, hlen]
  rfl

/-- A buffer of fewer than 8 bytes holds no signature (R164). -/
theorem readSig_of_short (h : s.buflen.toNat < 8) : s.readSig = .err .badSignature 0 :=
  readSig_of_not_signature fun ⟨hfit, _⟩ => absurd hfit (Nat.not_le.2 h)

/-- `PARSE_SIG` and `DECODE` end the same on a buffer of fewer than 8 bytes (R164, R176). -/
theorem signature_raised_of_short (h : s.buflen.toNat < 8) :
    ∀ i ∈ [Instr.parseSig, .decode], ∃ t, exec i s = .next t ∧ EndsRaised .badSignature .signature 0 t := by
  have hread := readSig_of_short h
  obtain ⟨t, hexec, hfails⟩ := parseSig_fails hread
  simp only [List.forall_mem_cons]
  exact ⟨⟨t, hexec, hfails.raised⟩, ⟨_, exec_decode_of_failure (.signature hread), State.raise_ends _ _ _ _⟩, nofun⟩

/-- The three chunk commands, where the length field at `POFF` does not lie in the buffer (R166, R169, R172). -/
theorem chunk_raised_of_no_length (h : s.buflen.toNat < s.poff.toNat + 4) :
    ∀ i ∈ [Instr.parseIhdr, .parseIdat, .parseIend],
      ∃ t, exec i s = .next t ∧ EndsRaised .outOfBounds (stageOf i) s.poff t := by
  rw [← low32_of_toNat s.poff]
  obtain ⟨t, hihdr, hihdrFails⟩ := parseIhdr_fails (readIhdr_no_length h)
  obtain ⟨u, hidat, hidatFails⟩ := parseIdat_fails (readIdat_no_length h)
  obtain ⟨v, hiend, hiendFails⟩ := parseIend_fails (readIend_no_length h)
  simp only [List.forall_mem_cons]
  exact ⟨⟨t, hihdr, hihdrFails.raised⟩, ⟨u, hidat, hidatFails.raised⟩, ⟨v, hiend, hiendFails.raised⟩, nofun⟩

/-- The two commands that build a tree, on no symbols (R207, R216). -/
theorem huffman_raised_of_empty (h : s.symlen = 0) :
    ∀ i ∈ [Instr.huffTree, .huffAll], ∃ t, exec i s = .next t ∧ EndsRaised .emptyInput .none 0 t := by
  simp only [List.forall_mem_cons]
  exact ⟨⟨_, exec_huffTree_of_empty h, State.raise_ends _ _ _ _⟩, ⟨_, exec_huffAll_of_empty h, State.raise_ends _ _ _ _⟩,
    nofun⟩

/-! The checksums of no bytes after reset: the one-shot commands start from the seeds, and reset leaves the registers
at the seeds (R53). -/

theorem crc_of_reset : ∀ i ∈ [Instr.crc32, .crcBuf],
    ∃ t, exec i State.reset = .next t ∧ EndsOk State.reset t ∧ t.regValue .crcValue = 0 := by
  simp only [List.forall_mem_cons]
  have hvalue : crcSeed ^^^ crcXorOut = 0 := BitVec.xor_self
  exact ⟨⟨_, exec_of_emptyRange (exec_crc32 _) rfl (Nat.zero_le _), ⟨rfl, rfl, rfl, rfl⟩, hvalue⟩,
    ⟨_, exec_of_emptyRange (exec_crcBuf _) rfl (Nat.zero_le _), ⟨rfl, rfl, rfl, rfl⟩, hvalue⟩, nofun⟩

theorem adler_of_reset : ∀ i ∈ [Instr.adler32, .adlerBuf],
    ∃ t, exec i State.reset = .next t ∧ EndsOk State.reset t ∧ t.regValue .adlerValue = 1 := by
  simp only [List.forall_mem_cons]
  have hvalue : adlerPack (low32 1) (low32 0) = 1 := by decide
  exact ⟨⟨_, exec_of_emptyRange (exec_adler32 _) rfl (Nat.zero_le _), ⟨rfl, rfl, rfl, rfl⟩, hvalue⟩,
    ⟨_, exec_of_emptyRange (exec_adlerBuf _) rfl (Nat.zero_le _), ⟨rfl, rfl, rfl, rfl⟩, hvalue⟩, nofun⟩

end Sys2Proof.Machine

open Sys2Proof Sys2Proof.Machine

/-- Settles O53, write by write: both writes that reach the buffer clear the records, the two of SYM keep them. -/
theorem bufferChangeInvalidatesRecords : Obligations.BufferChangeInvalidatesRecords := by
  intro s
  refine ⟨fun i b hi => ?_, fun v => ?_, fun i b hi => ?_, fun v => ?_⟩
  · obtain ⟨hstatus, herrinfo, hcrc, hadler, hpcons, htree, htable, -, -⟩ := s.putBuf_hostFrame i b
    exact ⟨_, if_pos hi, s.putBuf_bufByte_same i b, fun a ha => s.putBuf_bufByte_other b ha, fun _ => rfl,
      s.putBuf_recordsCleared i b, ⟨rfl, rfl, rfl, rfl, rfl⟩, ⟨rfl, hpcons⟩, hstatus, herrinfo,
      ⟨rfl, rfl, rfl, rfl, rfl⟩, hcrc, hadler, htree, htable⟩
  · obtain ⟨hstatus, herrinfo, hcrc, hadler, hpcons, htree, htable, -, -⟩ := regStore_hostFrame s .buflen v
    exact ⟨_, hostAccess_store rfl (by decide) v s, rfl, regStore_buflen_recordsCleared s v,
      ⟨rfl, rfl, rfl, rfl, rfl⟩, ⟨rfl, hpcons⟩, hstatus, herrinfo, regStore_memory s _ v, rfl, rfl, rfl, rfl, hcrc,
      hadler, htree, htable⟩
  · obtain ⟨hstatus, herrinfo, hcrc, hadler, hpcons, htree, htable, -, -⟩ := s.putSym_hostFrame i b
    exact ⟨_, if_pos hi, s.putSym_symByte_same i b, fun a ha => s.putSym_symByte_other b ha, fun _ => rfl,
      ⟨rfl, rfl, rfl, rfl, rfl⟩, ⟨rfl, rfl, rfl, rfl, rfl⟩, ⟨rfl, hpcons⟩, hstatus, herrinfo,
      ⟨rfl, rfl, rfl, rfl, rfl⟩, hcrc, hadler, htree, htable⟩
  · obtain ⟨-, -, -, -, -, htree, htable, -, -⟩ := regStore_hostFrame s .symlen v
    exact ⟨_, hostAccess_store rfl (by decide) v s, rfl, regStore_records s (by decide) v, htree, htable,
      regStore_memory s _ v⟩

/-- Settles O55: after reset the ranges, the buffer and the symbol sequence are empty, and there is no tree. -/
theorem firstCommandAfterReset : Obligations.FirstCommandAfterReset := by
  have hshort : State.reset.buflen.toNat < 8 := show 0 < 8 by decide
  have hnoLength : State.reset.buflen.toNat < State.reset.poff.toNat + 4 := show 0 < 4 by decide
  exact ⟨crc_of_reset, adler_of_reset, signature_raised_of_short hshort, chunk_raised_of_no_length hnoLength,
    huffman_raised_of_empty rfl, ⟨_, exec_huffTable_of_noTree rfl, State.raise_ends _ _ _ _⟩⟩

end
